-- ==== Sys2Proof/Word.lean ====
section
/-! DEFINITION. The widths of PDI-CORE: the RingValue every datum is (00_scope.md R8), the command word (R6, 30_encoding.md
R80), the register number of the host space (20_memory.md R51), and the byte of the host-side payload (R58). -/

namespace Sys2Proof

/-- "An unsigned integer in [0, 2^64)" (00_scope.md R8, R16): every data register, layer-table word, operand and result. -/
abbrev RingValue := BitVec 64

/-- A command word `w = v[31:0]` (00_scope.md R6 CMDLEN, 30_encoding.md R80). -/
abbrev CmdWord := BitVec 32

/-- A register number of the host space, 12 bits (00_scope.md R6, 10_state.md R38). -/
abbrev RegNum := BitVec 12

/-- A byte of a host-side payload (20_memory.md R58); inside PDI-CORE there are no bytes (R57). -/
abbrev Byte := BitVec 8

/-- The number of a data register D0 to D7 (10_state.md R20, NREG = 8 of 00_scope.md R6); every value of a 3-bit field
names one (30_encoding.md R81). -/
abbrev DReg := Fin 8

end Sys2Proof
end

