-- ==== Sys2Proof/Syntax.lean ====
section
/-! DEFINITION. The seven commands of PDI-CORE, one constructor per row of spec/opcode_table.json, operands in the order
of the assembly syntax (30_encoding.md R89, R94). -/

namespace Sys2Proof

/-- A command (30_encoding.md R89). -/
inductive Instr where
  /-- `ISQRT rd, rs1` (40_isqrt.md R110). -/
  | isqrt (rd rs1 : DReg)
  /-- `MODINV rd, rs1` (41_modinv.md R120). -/
  | modinv (rd rs1 : DReg)
  /-- `AFWD rd, rs1` (42_affine.md R133). -/
  | afwd (rd rs1 : DReg)
  /-- `AINV rd, rs1` (42_affine.md R135). -/
  | ainv (rd rs1 : DReg)
  /-- `DECOMP rd, rd2, rs1`: `rd` takes the root, `rd2` the remainder (43_geometric.md R150). -/
  | decomp (rd rd2 rs1 : DReg)
  /-- `RECON rd, rs1, rs2`: `rs1` holds the root, `rs2` the remainder (43_geometric.md R152). -/
  | recon (rd rs1 rs2 : DReg)
  /-- `CLRERR` (44_system.md R160). -/
  | clrerr
  deriving DecidableEq, Repr

/-- The command mnemonics' text with operands, destination first (30_encoding.md R94). -/
def Instr.assembly : Instr → String
  | .isqrt rd rs1 => "ISQRT d" ++ toString rd.val ++ ", d" ++ toString rs1.val
  | .modinv rd rs1 => "MODINV d" ++ toString rd.val ++ ", d" ++ toString rs1.val
  | .afwd rd rs1 => "AFWD d" ++ toString rd.val ++ ", d" ++ toString rs1.val
  | .ainv rd rs1 => "AINV d" ++ toString rd.val ++ ", d" ++ toString rs1.val
  | .decomp rd rd2 rs1 =>
      "DECOMP d" ++ toString rd.val ++ ", d" ++ toString rd2.val ++ ", d" ++ toString rs1.val
  | .recon rd rs1 rs2 =>
      "RECON d" ++ toString rd.val ++ ", d" ++ toString rs1.val ++ ", d" ++ toString rs2.val
  | .clrerr => "CLRERR"

end Sys2Proof
end

