-- ==== Sys2Proof/WellFormed.lean ====
section
/-! DEFINITION. Which commands a word can spell: all but a DECOMP whose two destinations are one register (30_encoding.md
R84, R86, R90 case 4). Register numbers need no check: every 3-bit value names a register (R81). -/

namespace Sys2Proof

/-- `rd ≠ rd2` for DECOMP, nothing to check for the others (30_encoding.md R86). -/
def Instr.wf : Instr → Bool
  | .isqrt _ _ => true
  | .modinv _ _ => true
  | .afwd _ _ => true
  | .ainv _ _ => true
  | .decomp rd rd2 _ => rd != rd2
  | .recon _ _ _ => true
  | .clrerr => true

end Sys2Proof
end

