-- ==== Sys2Proof/Decode.lean ====
section
/-! DEFINITION. The decoder of 30_encoding.md R93, total on every 64-bit value written to CMD, which names why a value is
illegal (R90), and after it the encoder of R97. -/

namespace Sys2Proof

/-- Why a value written to CMD is an illegal command: the four cases of 30_encoding.md R90. The machine does not tell them
apart, since all give IllegalCommand. -/
inductive Illegal where
  /-- `v[63:32] ≠ 0` (R90 case 1). -/
  | highHalf
  /-- The opcode is not one of 01 to 07 (R90 case 2, R91). -/
  | reservedOpcode
  /-- A bit outside the opcode and the used register fields is 1 (R90 case 3). -/
  | reservedBits
  /-- DECOMP with `rd = rd2` (R90 case 4). -/
  | sameDestination
  deriving DecidableEq, Repr

/-- What the decoder answers (30_encoding.md R92: every value is a command or illegal). -/
inductive Decoded where
  | legal (i : Instr)
  | illegal (why : Illegal)
  deriving DecidableEq, Repr

/-- The 3-bit register field of `w` whose lowest bit is bit `lo` (30_encoding.md R81). -/
def regField (w : CmdWord) (lo : Nat) : DReg := ⟨(w.extractLsb' lo 3).toNat, (w.extractLsb' lo 3).isLt⟩

/-- Field `rd`, bits 10:8 (30_encoding.md R81). -/
def fieldRd (w : CmdWord) : DReg := regField w 8

/-- Field `rs1`, bits 14:12 (30_encoding.md R81). -/
def fieldRs1 (w : CmdWord) : DReg := regField w 12

/-- Field `rs2`, bits 18:16 (30_encoding.md R81). -/
def fieldRs2 (w : CmdWord) : DReg := regField w 16

/-- Field `rd2`, bits 22:20 (30_encoding.md R81). -/
def fieldRd2 (w : CmdWord) : DReg := regField w 20

/-- Mask of format Z (30_encoding.md R86). -/
def maskZ : CmdWord := 0xFFFFFFFF#32

/-- Mask of format U (30_encoding.md R86). -/
def maskU : CmdWord := 0xFFFF88FF#32

/-- Mask of format S (30_encoding.md R86). -/
def maskS : CmdWord := 0xFF8F88FF#32

/-- Mask of format J (30_encoding.md R86). -/
def maskJ : CmdWord := 0xFFF888FF#32

/-- `i` where `w` matches under the format's mask, else a reserved or unused bit is set (30_encoding.md R86, R90 case 3). -/
def matching (w mask pattern : CmdWord) (i : Instr) : Decoded :=
  if w &&& mask = pattern then .legal i else .illegal .reservedBits

/-- The commands by opcode, `w` being the low half of the value written (30_encoding.md R89, R93). -/
def decodeWord (w : CmdWord) : Decoded :=
  match (w.extractLsb' 0 8).toNat with
  | 0x01 => matching w maskU 0x00000001#32 (.isqrt (fieldRd w) (fieldRs1 w))
  | 0x02 => matching w maskU 0x00000002#32 (.modinv (fieldRd w) (fieldRs1 w))
  | 0x03 => matching w maskU 0x00000003#32 (.afwd (fieldRd w) (fieldRs1 w))
  | 0x04 => matching w maskU 0x00000004#32 (.ainv (fieldRd w) (fieldRs1 w))
  | 0x05 =>
    match matching w maskS 0x00000005#32 (.decomp (fieldRd w) (fieldRd2 w) (fieldRs1 w)) with
    | .illegal why => .illegal why
    | .legal i => if fieldRd w = fieldRd2 w then .illegal .sameDestination else .legal i
  | 0x06 => matching w maskJ 0x00000006#32 (.recon (fieldRd w) (fieldRs1 w) (fieldRs2 w))
  | 0x07 => matching w maskZ 0x00000007#32 .clrerr
  | _ => .illegal .reservedOpcode

/-- The decoder, total on every value written to CMD (30_encoding.md R80, R93). -/
def decode (v : RingValue) : Decoded :=
  if v.extractLsb' 32 32 ≠ 0#32 then .illegal .highHalf else decodeWord (v.extractLsb' 0 32)

/-- A register number as 32 bits, `zext_32` (30_encoding.md R97). -/
def zextReg (r : DReg) : CmdWord := BitVec.ofNat 32 r.val

/-- The encoding formula, an unused field being register number 0 (30_encoding.md R97). -/
def encodeFields (op : CmdWord) (rd rs1 rs2 rd2 : DReg) : CmdWord :=
  op ||| (zextReg rd <<< 8) ||| (zextReg rs1 <<< 12) ||| (zextReg rs2 <<< 16) ||| (zextReg rd2 <<< 20)

/-- The command word of a command (30_encoding.md R89, R97). -/
def encode : Instr → CmdWord
  | .isqrt rd rs1 => encodeFields 0x01#32 rd rs1 0 0
  | .modinv rd rs1 => encodeFields 0x02#32 rd rs1 0 0
  | .afwd rd rs1 => encodeFields 0x03#32 rd rs1 0 0
  | .ainv rd rs1 => encodeFields 0x04#32 rd rs1 0 0
  | .decomp rd rd2 rs1 => encodeFields 0x05#32 rd rs1 0 rd2
  | .recon rd rs1 rs2 => encodeFields 0x06#32 rd rs1 rs2 0
  | .clrerr => encodeFields 0x07#32 0 0 0 0

/-- The value the host writes to CMD for a command: `zext_64` of its word (30_encoding.md R95, line `CMD`); what an
error of the command records in ECMD (log 7). -/
def cmdValue (i : Instr) : RingValue := (encode i).setWidth 64

/-- The instruction the decoder reads from a value of at most `nbits` bits, the bits above being 0: the value of one
HostWrite to CMD (30_encoding.md R80: a decoder needs `v` alone). -/
def decodeTableWord (nbits w : Nat) : Option Instr :=
  if nbits ≤ 64 then
    match decode (BitVec.ofNat 64 (w % 2 ^ nbits)) with
    | .legal i => some i
    | .illegal _ => none
  else none

end Sys2Proof
end

