-- ==== Sys2Proof/Config.lean ====
section
/-! DEFINITION. The parameters of PDI-CORE (00_scope.md R6). The hardware has no free value of its own: every result of a
command is a unique value or a named error (93_implementation_defined.md, opening). -/

namespace Sys2Proof

/-- CHAIN_MAX of the PDI-CORE that `State.reset` is: 16, the value the spec's examples use (00_scope.md R6;
95_test_vectors.md, opening). DESIGN CHOICE, log 3, unsafe only for a claim about `State.reset` itself: the model carries
CHAIN_MAX as the length of the layer table, so a claim about every state is about every CHAIN_MAX. -/
def Config.chainMax : Nat := 16

/-- The largest CHAIN_MAX there is (00_scope.md R6). -/
def Config.chainMaxLimit : Nat := 256

/-- NEWTON_ITERS, the update steps of the reference inverse algorithm (00_scope.md R6, 41_modinv.md R122). -/
def Config.newtonIters : Nat := 6

end Sys2Proof
end

