-- ==== Sys2Proof/Machine/Arith.lean ====
section
/-! DEFINITION. The arithmetic of PDI-CORE: the ring modulo 2^64 (00_scope.md R9), the floor square root over ℕ (R11, R14),
the inverse of an odd value (R15), and the spec's reference algorithms (40_isqrt.md R113, 41_modinv.md R122). -/

namespace Sys2Proof.Machine

/-- `(nat(a) + nat(b)) mod 2^64` (00_scope.md R9, R10). -/
def add64 (a b : RingValue) : RingValue := a + b

/-- `(nat(a) - nat(b)) mod 2^64` (00_scope.md R9, R10). -/
def sub64 (a b : RingValue) : RingValue := a - b

/-- The low 64 bits of the product (00_scope.md R9, R10). -/
def mul64 (a b : RingValue) : RingValue := a * b

/-- `a[0] = 1` (00_scope.md R12). -/
def isOdd (a : RingValue) : Bool := a.getLsbD 0

/-- Digit by digit from bit `k - 1` down: a digit stays when the exact square, in ℕ, does not exceed `n`. -/
def isqrtFrom : Nat → Nat → Nat → Nat
  | 0, _, r => r
  | k + 1, n, r => isqrtFrom k n (if (r + 2 ^ k) * (r + 2 ^ k) ≤ n then r + 2 ^ k else r)

/-- The floor square root of `n < 2^64`; products and comparisons are in ℕ (00_scope.md R11, R14). The method is free
(40_isqrt.md R112, log 9). -/
def isqrt (n : Nat) : Nat := isqrtFrom 32 n 0

/-- The square root of a RingValue as a RingValue: `zext_64(isqrt(nat(a)))` (40_isqrt.md R110). -/
def sqrt64 (a : RingValue) : RingValue := BitVec.ofNat 64 (isqrt a.toNat)

/-- The passes of `isqrt_ref` still to run, in 64-bit variables `r`, `rem`, `bit` (40_isqrt.md R113). -/
def isqrtRefLoop : Nat → RingValue → RingValue → RingValue → RingValue × RingValue
  | 0, r, rem, _ => (r, rem)
  | k + 1, r, rem, bit =>
    if (r + bit).toNat ≤ rem.toNat then isqrtRefLoop k ((r >>> 1) + bit) (rem - (r + bit)) (bit >>> 2)
    else isqrtRefLoop k (r >>> 1) rem (bit >>> 2)

/-- `isqrt_ref`, the bit-pair square root of 40_isqrt.md R113: exactly 32 passes; root and final remainder. -/
def isqrtRef (a : RingValue) : RingValue × RingValue := isqrtRefLoop 32 0#64 a (1#64 <<< 62)

/-- `inv` after `k` updates `inv ← inv * (2 − a*inv)` from the value given (41_modinv.md R122). -/
def newtonFrom (a : RingValue) : Nat → RingValue → RingValue
  | 0, inv => inv
  | k + 1, inv => newtonFrom a k (mul64 inv (sub64 2#64 (mul64 a inv)))

/-- `inv64(a)` for odd `a` (00_scope.md R15), by the document's iteration from `inv = a` (41_modinv.md R122). No command
asks for it on an even `a` (R124); the method is free (log 9). -/
def inv64 (a : RingValue) : RingValue := newtonFrom a Config.newtonIters a

end Sys2Proof.Machine
end

