-- ==== Sys2Proof/Machine/State.lean ====
section
/-! DEFINITION. The state of PDI-CORE: the record of 10_state.md R41 as plain data, with the host's transactions still to
come and the results of those that are done. -/

namespace Sys2Proof.Machine

/-- A data register or a layer-table word: its 64 bits, and the spec's unwritten mark (`written = false`: not written by
the host or by a command since the last reset, 00_scope.md R16; 10_state.md R23, R37). The value of an unwritten word is
the model's, log 1 and 2. -/
structure Slot where
  value : RingValue
  written : Bool
  deriving DecidableEq, Repr

/-- Entry i of the layer table: the multiplier `LA[i]` and the offset `LB[i]` (10_state.md R34). -/
structure Layer where
  a : Slot
  b : Slot
  deriving DecidableEq, Repr

/-- The five values STATUS.ERR takes (10_state.md R29); 5 to 15 are never produced. -/
inductive ErrCode where
  /-- 0: no error is latched. -/
  | none
  /-- 1 (60_exceptions.md R171). -/
  | invalidLayer
  /-- 2 (60_exceptions.md R172). -/
  | notInvertible
  /-- 3 (60_exceptions.md R173). -/
  | illegalCommand
  /-- 4 (60_exceptions.md R174). -/
  | chainLength
  deriving DecidableEq, Repr

/-- What a register number names (20_memory.md R51). -/
inductive RegName where
  | data (i : DReg)
  | cmd
  | status
  | ecmd
  | chlen
  | la (i : Nat)
  | lb (i : Nat)
  | unimplemented
  deriving DecidableEq, Repr

/-- The three host transactions (20_memory.md R50). -/
inductive Transaction where
  | read (n : RegNum)
  | write (n : RegNum) (v : RingValue)
  | reset
  deriving DecidableEq, Repr

/-- What HostRead and HostWrite return (20_memory.md R50); HostReset returns nothing. -/
inductive Reply where
  /-- `Ok(v)` of a HostRead. -/
  | value (v : RingValue)
  /-- `Ok` of a HostWrite. -/
  | ok
  /-- AccessError (20_memory.md R52). -/
  | accessError
  deriving DecidableEq, Repr

/-- The state (10_state.md R41). The length of `table` is CHAIN_MAX (R34; log 3). -/
structure State where
  /-- D0 to D7 (10_state.md R20). -/
  x : Vector Slot 8
  /-- STATUS.ERR (10_state.md R28, R29). -/
  err : ErrCode
  /-- STATUS.ERRIDX (10_state.md R28, R30). -/
  erridx : BitVec 8
  /-- ECMD (10_state.md R31). -/
  ecmd : RingValue
  /-- CHLEN (10_state.md R32). -/
  chlen : RingValue
  /-- LA[i] and LB[i], 0 ≤ i < CHAIN_MAX (10_state.md R34). -/
  table : List Layer
  /-- The MODEL's own: the host's transactions still to come, first one first (10_state.md R39; log 4). -/
  script : List Transaction
  /-- The MODEL's own: the results returned to the host, newest first (20_memory.md R50; log 6). -/
  replies : List Reply
  deriving DecidableEq, Repr

/-- Why a step could stop with a fault: never. Every transaction completes and nothing can hang or be stuck
(60_exceptions.md R190), so the type has no constructor. -/
inductive Fault where
  deriving DecidableEq, Repr

/-- Why a step could be refused. The read of an unwritten word, which 60_exceptions.md R190 would have a model refuse, has
a value here (log 1, 2, 14). -/
inductive Refusal where
  /-- An instruction that has no meaning yet. Safe: nothing can be proved of its effect. No arm of `exec` raises it. -/
  | notModelled (mnemonic : String)
  deriving DecidableEq, Repr

/-- CHAIN_MAX of this PDI-CORE (00_scope.md R6, 10_state.md R34). -/
def State.chainMax (s : State) : Nat := s.table.length

/-- An unwritten register or word. The value 0 is a DESIGN CHOICE, unsafe, log 1 and 2: the spec leaves it unspecified
(70_reset_and_hazards.md R202). -/
def Slot.unwritten : Slot := ⟨0#64, false⟩

/-- An entry of the layer table after reset (70_reset_and_hazards.md R202). -/
def Layer.unwritten : Layer := ⟨Slot.unwritten, Slot.unwritten⟩

/-- The state after HostReset of a PDI-CORE with CHAIN_MAX = `chainMax`, no transaction to come and none done
(70_reset_and_hazards.md R201, R202, R204). -/
def State.resetOf (chainMax : Nat) : State where
  x := Vector.replicate 8 Slot.unwritten
  err := .none
  erridx := 0#8
  ecmd := 0#64
  chlen := 0#64
  table := List.replicate chainMax Layer.unwritten
  script := []
  replies := []

/-- The machine right after reset (70_reset_and_hazards.md R200, R204), with the CHAIN_MAX of the spec's examples. -/
def State.reset : State := State.resetOf Config.chainMax

end Sys2Proof.Machine
end

