-- ==== Sys2Proof/Machine/Operands.lean ====
section
/-! DEFINITION. The one operand form, register direct (30_encoding.md R88), the words of the layer table, and the map from
register numbers to registers (20_memory.md R51). -/

namespace Sys2Proof.Machine

/-- `x[r]`, all 64 bits (00_scope.md R13, 30_encoding.md R88). -/
def readData (r : DReg) (s : State) : RingValue := s.x[r].value

/-- `x[r] <- v`, all 64 bits; the register is written from then on (00_scope.md R13, R16, 30_encoding.md R88). -/
def writeData (r : DReg) (v : RingValue) (s : State) : State := { s with x := s.x.set r ⟨v, true⟩ }

/-- `LA[i] <- v` (10_state.md R34, R37: no check). -/
def writeLA (i : Nat) (v : RingValue) (s : State) : State :=
  { s with table := s.table.modify i fun l => { l with a := ⟨v, true⟩ } }

/-- `LB[i] <- v` (10_state.md R34). -/
def writeLB (i : Nat) (v : RingValue) (s : State) : State :=
  { s with table := s.table.modify i fun l => { l with b := ⟨v, true⟩ } }

/-- `CHLEN <- v`, not checked (10_state.md R32). -/
def writeChlen (v : RingValue) (s : State) : State := { s with chlen := v }

/-- The register number of CMD (10_state.md R27). -/
def cmdNumber : RegNum := 0x010#12

/-- What register number `n` names when CHAIN_MAX is `chainMax` (20_memory.md R51, 10_state.md R34). -/
def regName (chainMax : Nat) (n : RegNum) : RegName :=
  if h : n.toNat < 8 then .data ⟨n.toNat, h⟩
  else if n.toNat = 0x010 then .cmd
  else if n.toNat = 0x011 then .status
  else if n.toNat = 0x012 then .ecmd
  else if n.toNat = 0x013 then .chlen
  else if 0x200 ≤ n.toNat ∧ n.toNat < 0x200 + 2 * chainMax then
    if n.toNat % 2 = 0 then .la ((n.toNat - 0x200) / 2) else .lb ((n.toNat - 0x200) / 2)
  else .unimplemented

end Sys2Proof.Machine
end

