-- ==== Sys2Proof/Machine/Ops.lean ====
section
/-! DEFINITION. The shared operations: raising an error (60_exceptions.md R180), the return from it (44_system.md R160), the
latch that holds commands back (R184), and the layer chain with its validation (42_affine.md R132, R133, R135). -/

namespace Sys2Proof.Machine

/-- `raise E(info)` inside the CMD write of value `v`: code, index and command are recorded and nothing else changes
(60_exceptions.md R180, R181). This is the whole of error entry. -/
def raiseError (e : ErrCode) (idx : BitVec 8) (v : RingValue) (s : State) : State :=
  { s with err := e, erridx := idx, ecmd := v }

/-- The return from an error: ERR, ERRIDX and ECMD take their reset values (44_system.md R160, 60_exceptions.md R185). -/
def clearError (s : State) : State := { s with err := .none, erridx := 0#8, ecmd := 0#64 }

/-- A command other than CLRERR does nothing while an error is latched (60_exceptions.md R179, R184). -/
def unlessLatched (command : State → State) (s : State) : State :=
  if s.err = .none then command s else s

/-- The effect of writing an illegal command `v` to CMD (60_exceptions.md R173, R179). -/
def illegalCommand (v : RingValue) : State → State := unlessLatched (raiseError .illegalCommand 0#8 v)

/-- The lowest index, counted from `i`, of a layer with an even multiplier (42_affine.md R132). -/
def firstEven : List Layer → Nat → Option Nat
  | [], _ => none
  | l :: rest, i => if isOdd l.a.value then firstEven rest (i + 1) else some i

/-- The chain: entries 0 to `nat(CHLEN)`−1 in index order (42_affine.md R130, 10_state.md R35). -/
def chain (s : State) : List Layer := s.table.take s.chlen.toNat

/-- `validate_chain()`, then `command` on the state; an error leaves everything but the latch alone (42_affine.md R132).
`v` is the value written to CMD; the index is narrowed to ERRIDX (log 10). -/
def withValidChain (v : RingValue) (command : State → State) (s : State) : State :=
  if s.chainMax < s.chlen.toNat then raiseError .chainLength 0#8 v s
  else
    match firstEven (chain s) 0 with
    | some i => raiseError .invalidLayer (BitVec.ofNat 8 i) v s
    | none => command s

/-- `v ← a*v + b mod 2^64` for the layers in rising index order (42_affine.md R133). -/
def forward : List Layer → RingValue → RingValue
  | [], v => v
  | l :: rest, v => forward rest (add64 (mul64 l.a.value v) l.b.value)

/-- `v ← ainv * (v − b) mod 2^64` for the layers in strictly reversed order (42_affine.md R135). -/
def inverse : List Layer → RingValue → RingValue
  | [], v => v
  | l :: rest, v => mul64 (inv64 l.a.value) (sub64 (inverse rest v) l.b.value)

end Sys2Proof.Machine
end

