-- ==== Sys2Proof/Machine/Affine.lean ====
section
/-! DEFINITION. The meanings of AFWD and AINV (42_affine.md). -/

namespace Sys2Proof.Machine

/-- AFWD rd, rs1 (42_affine.md R133). -/
def execAfwd (rd rs1 : DReg) (s : State) : Host.Outcome State Fault Refusal :=
  .next (unlessLatched (withValidChain (cmdValue (.afwd rd rs1))
    fun s => writeData rd (forward (chain s) (readData rs1 s)) s) s)

/-- AINV rd, rs1 (42_affine.md R135). -/
def execAinv (rd rs1 : DReg) (s : State) : Host.Outcome State Fault Refusal :=
  .next (unlessLatched (withValidChain (cmdValue (.ainv rd rs1))
    fun s => writeData rd (inverse (chain s) (readData rs1 s)) s) s)

end Sys2Proof.Machine
end

