-- ==== Sys2Proof/Machine/Geometric.lean ====
section
/-! DEFINITION. The meanings of DECOMP and RECON (43_geometric.md). -/

namespace Sys2Proof.Machine

/-- DECOMP once no error is latched: the source is read before either destination is written (43_geometric.md R150). -/
def decompCommand (rd rd2 rs1 : DReg) (s : State) : State :=
  writeData rd2 (sub64 (readData rs1 s) (mul64 (sqrt64 (readData rs1 s)) (sqrt64 (readData rs1 s))))
    (writeData rd (sqrt64 (readData rs1 s)) s)

/-- DECOMP rd, rd2, rs1 (43_geometric.md R150). With `rd = rd2` it is an illegal command (30_encoding.md R90 case 4), which
no word decodes to (log 8). -/
def execDecomp (rd rd2 rs1 : DReg) (s : State) : Host.Outcome State Fault Refusal :=
  .next (if rd = rd2 then illegalCommand (cmdValue (.decomp rd rd2 rs1)) s
    else unlessLatched (decompCommand rd rd2 rs1) s)

/-- RECON rd, rs1, rs2 (43_geometric.md R152): nothing is checked (R154). -/
def execRecon (rd rs1 rs2 : DReg) (s : State) : Host.Outcome State Fault Refusal :=
  .next (unlessLatched (fun s =>
    writeData rd (add64 (mul64 (readData rs1 s) (readData rs1 s)) (readData rs2 s)) s) s)

end Sys2Proof.Machine
end

