-- ==== Sys2Proof/Machine/Isqrt.lean ====
section
/-! DEFINITION. The meaning of ISQRT (40_isqrt.md). -/

namespace Sys2Proof.Machine

/-- ISQRT rd, rs1 (40_isqrt.md R110). -/
def execIsqrt (rd rs1 : DReg) (s : State) : Host.Outcome State Fault Refusal :=
  .next (unlessLatched (fun s => writeData rd (sqrt64 (readData rs1 s)) s) s)

end Sys2Proof.Machine
end

