-- ==== Sys2Proof/Machine/Modinv.lean ====
section
/-! DEFINITION. The meaning of MODINV (41_modinv.md). -/

namespace Sys2Proof.Machine

/-- MODINV once no error is latched: the oddness test comes first (41_modinv.md R120, R124). -/
def modinvCommand (rd rs1 : DReg) (s : State) : State :=
  if isOdd (readData rs1 s) then writeData rd (inv64 (readData rs1 s)) s
  else raiseError .notInvertible 0#8 (cmdValue (.modinv rd rs1)) s

/-- MODINV rd, rs1 (41_modinv.md R120). -/
def execModinv (rd rs1 : DReg) (s : State) : Host.Outcome State Fault Refusal :=
  .next (unlessLatched (modinvCommand rd rs1) s)

end Sys2Proof.Machine
end

