-- ==== Sys2Proof/Machine/System.lean ====
section
/-! DEFINITION. The meaning of CLRERR (44_system.md), the one system command (R162). -/

namespace Sys2Proof.Machine

/-- CLRERR, whether or not an error is latched (44_system.md R160). -/
def execClrerr (s : State) : Host.Outcome State Fault Refusal := .next (clearError s)

end Sys2Proof.Machine
end

