-- ==== Sys2Proof/Machine/Dispatch.lean ====
section
/-! DEFINITION. From a command to its meaning, one arm per constructor (60_exceptions.md R179, the legal cases). -/

namespace Sys2Proof.Machine

def exec (i : Instr) (s : State) : Host.Outcome State Fault Refusal :=
  match i with
  | .isqrt rd rs1 => Sys2Proof.Machine.execIsqrt rd rs1 s
  | .modinv rd rs1 => Sys2Proof.Machine.execModinv rd rs1 s
  | .afwd rd rs1 => Sys2Proof.Machine.execAfwd rd rs1 s
  | .ainv rd rs1 => Sys2Proof.Machine.execAinv rd rs1 s
  | .decomp rd rd2 rs1 => Sys2Proof.Machine.execDecomp rd rd2 rs1 s
  | .recon rd rs1 rs2 => Sys2Proof.Machine.execRecon rd rs1 rs2 s
  | .clrerr => Sys2Proof.Machine.execClrerr s

end Sys2Proof.Machine
end

