-- ==== Sys2Proof/Machine/Flags.lean ====
section
/-! DEFINITION. PDI-CORE has no flags or condition codes (10_state.md R25). The one status it has is the error field: the
code numbers (R29) and the layout of STATUS (R28, R33). -/

namespace Sys2Proof.Machine

/-- The number of an error code (10_state.md R29). -/
def errNumber : ErrCode → BitVec 4
  | .none => 0#4
  | .invalidLayer => 1#4
  | .notInvertible => 2#4
  | .illegalCommand => 3#4
  | .chainLength => 4#4

/-- What STATUS reads as: `zext_64(ERRIDX ++ 0000 ++ ERR)` (20_memory.md R51, 10_state.md R28, R33). -/
def statusValue (s : State) : RingValue := (s.erridx ++ 0#4 ++ errNumber s.err).setWidth 64

end Sys2Proof.Machine
end

