-- ==== Sys2Proof/Machine/Transaction.lean ====
section
/-! DEFINITION. The host transactions: HostRead, HostWrite, HostReset (20_memory.md R50, R51, R52; 70_reset_and_hazards.md
R200) and the execution of a value written to CMD (60_exceptions.md R179). -/

namespace Sys2Proof.Machine

/-- The result `r` of a transaction is returned to the host (20_memory.md R50). -/
def reply (r : Reply) (s : State) : State := { s with replies := r :: s.replies }

/-- The column HostRead of the map: the value of register number `n`, or none for AccessError (20_memory.md R51). -/
def peek (n : RegNum) (s : State) : Option RingValue :=
  match regName s.chainMax n with
  | .data i => some (readData i s)
  | .cmd => none
  | .status => some (statusValue s)
  | .ecmd => some s.ecmd
  | .chlen => some s.chlen
  | .la i => s.table[i]?.map fun l => l.a.value
  | .lb i => s.table[i]?.map fun l => l.b.value
  | .unimplemented => none

/-- The column HostWrite of the map, but for CMD: the state with `v` stored in register number `n`, or none for
AccessError (20_memory.md R51). -/
def poke (n : RegNum) (v : RingValue) (s : State) : Option State :=
  match regName s.chainMax n with
  | .data i => some (writeData i v s)
  | .cmd => none
  | .status => none
  | .ecmd => none
  | .chlen => some (writeChlen v s)
  | .la i => some (writeLA i v s)
  | .lb i => some (writeLB i v s)
  | .unimplemented => none

/-- `exec_cmd(v)`, the whole effect of a HostWrite of `v` to CMD but its result Ok (60_exceptions.md R179). -/
def execCmd (v : RingValue) (s : State) : Host.Outcome State Fault Refusal :=
  match decode v with
  | .legal i => exec i s
  | .illegal _ => .next (illegalCommand v s)

/-- The CMD write returns Ok whatever the command's outcome (20_memory.md R51, 60_exceptions.md R183). -/
def writeCmd (v : RingValue) (s : State) : Host.Outcome State Fault Refusal :=
  match execCmd v s with
  | .next t => .next (reply .ok t)
  | .fault r => .fault r
  | .refused r => .refused r

/-- HostRead(n): no side effect, AccessError where the map says so (20_memory.md R51, R52, R55). -/
def hostRead (n : RegNum) (s : State) : State :=
  match peek n s with
  | some v => reply (.value v) s
  | none => reply .accessError s

/-- HostWrite(n, v) to a register other than CMD; an AccessError changes nothing (20_memory.md R51, R52). -/
def hostStore (n : RegNum) (v : RingValue) (s : State) : State :=
  match poke n v s with
  | some t => reply .ok t
  | none => reply .accessError s

/-- HostWrite(n, v) (20_memory.md R51). -/
def hostWrite (n : RegNum) (v : RingValue) (s : State) : Host.Outcome State Fault Refusal :=
  if n = cmdNumber then writeCmd v s else .next (hostStore n v s)

/-- HostReset: everything the spec gives the machine is as after reset, for the same CHAIN_MAX; what the host has still to
do and has been told is the host's (70_reset_and_hazards.md R200, R204; log 6). -/
def hostReset (s : State) : State :=
  { State.resetOf s.chainMax with script := s.script, replies := s.replies }

/-- One host transaction (20_memory.md R50). -/
def perform (t : Transaction) (s : State) : Host.Outcome State Fault Refusal :=
  match t with
  | .read n => .next (hostRead n s)
  | .write n v => hostWrite n v s
  | .reset => .next (hostReset s)

/-- The host's next transaction is taken, or, when there is none, PDI-CORE stays as it is: between transactions it is idle
and all state survives (60_exceptions.md R182, R188; log 4). -/
def nextTransaction (s : State) : Host.Outcome State Fault Refusal :=
  match s.script with
  | [] => .next s
  | t :: rest => perform t { s with script := rest }

/-- `s` whose next transaction is the HostWrite of `v` to CMD (30_encoding.md R80). -/
def issue (v : RingValue) (s : State) : State := { s with script := .write cmdNumber v :: s.script }

end Sys2Proof.Machine
end

