-- ==== Sys2Proof/Machine/Step.lean ====
section
/-! DEFINITION. One step is one host transaction (20_memory.md R50, R62, R63; 70_reset_and_hazards.md R210). -/

namespace Sys2Proof.Machine

/-- The next transaction of the host's script, performed whole. -/
def step (s : State) : Host.Outcome State Fault Refusal := nextTransaction s

/-- `s` whose very next transaction writes the command `w`, of `nbits` bits, to CMD (log 5). -/
def State.withFetchWord (s : State) (nbits w : Nat) : State := issue (BitVec.ofNat 64 (w % 2 ^ nbits)) s

end Sys2Proof.Machine
end

