-- ==== Sys2Proof/Machine/HostCodec.lean ====
section
/-! DEFINITION. The host side's Pack and Unpack (20_memory.md R57 to R61). They are no part of PDI-CORE and of no State
(00_scope.md R4); a host that follows the document uses them around HostWrite and HostRead (log 13). -/

namespace Sys2Proof.Machine

/-- The bytes folded from the first, most significant one (20_memory.md R58). -/
def packFrom : List Byte → RingValue → RingValue
  | [], v => v
  | p :: rest, v => packFrom rest ((v <<< 8) ||| p.setWidth 64)

/-- `Pack`: the big-endian value of exactly 8 bytes; none is the host's error InvalidPayloadLength (20_memory.md R58,
60_exceptions.md R175). -/
def pack (payload : List Byte) : Option RingValue :=
  if payload.length = 8 then some (packFrom payload 0#64) else none

/-- Byte `k` of `Unpack`: `v[63-8*k : 56-8*k]` (20_memory.md R59). -/
def unpackByte (v : RingValue) (k : Nat) : Byte := v.extractLsb' (56 - 8 * k) 8

/-- The 8 bytes of `Unpack` in big-endian order (20_memory.md R59). -/
def unpackBytes (v : RingValue) : List Byte := (List.range 8).map (unpackByte v)

/-- `Unpack` to text: what `utf8` makes of the bytes, or the sentinel where it fails. Both are the host's parameters:
validity and the sentinel's characters are not in the document (20_memory.md R60, 93_implementation_defined.md U8). -/
def unpackText (utf8 : List Byte → Option String) (sentinel : String) (v : RingValue) : String :=
  (utf8 (unpackBytes v)).getD sentinel

end Sys2Proof.Machine
end

