-- ==== Sys2Proof/Safety.lean ====
section
/-! DEFINITION. What counts as a safe run, in the terms claims use: no error latched, no AccessError returned
(20_memory.md R52, 60_exceptions.md R190), and no word read that was not written since reset (70_reset_and_hazards.md R205,
R208). -/

namespace Sys2Proof.Machine

/-- No error is latched (10_state.md R29). -/
def Clear (s : State) : Prop := s.err = .none

/-- An error is latched (10_state.md R29). -/
def Latched (s : State) : Prop := s.err ≠ .none

/-- 1 ≤ CHAIN_MAX ≤ 256 (00_scope.md R6). -/
def TableSized (s : State) : Prop := 1 ≤ s.chainMax ∧ s.chainMax ≤ Config.chainMaxLimit

/-- No transaction so far returned AccessError (20_memory.md R52). -/
def NoAccessError (s : State) : Prop := Reply.accessError ∉ s.replies

/-- The words validation reads are written: `LA[i]` up to and including the first even one (42_affine.md R131). -/
def validationReadsWritten : List Layer → Bool
  | [] => true
  | l :: rest => l.a.written && (!isOdd l.a.value || validationReadsWritten rest)

/-- The words a chain command with source `rs1` reads are written (42_affine.md R131, 70_reset_and_hazards.md R205). -/
def chainReadsWritten (rs1 : DReg) (s : State) : Bool :=
  if s.chainMax < s.chlen.toNat then true
  else
    validationReadsWritten (chain s) &&
      (!(chain s).all (fun l => isOdd l.a.value) || ((chain s).all (fun l => l.b.written) && s.x[rs1].written))

/-- The words a command reads are written; one that is held back by the latch reads none (70_reset_and_hazards.md R205,
60_exceptions.md R184). -/
def commandReadsWritten (i : Instr) (s : State) : Bool :=
  if s.err ≠ .none then true
  else
    match i with
    | .isqrt _ rs1 => s.x[rs1].written
    | .modinv _ rs1 => s.x[rs1].written
    | .afwd _ rs1 => chainReadsWritten rs1 s
    | .ainv _ rs1 => chainReadsWritten rs1 s
    | .decomp rd rd2 rs1 => rd == rd2 || s.x[rs1].written
    | .recon _ rs1 rs2 => s.x[rs1].written && s.x[rs2].written
    | .clrerr => true

/-- The registers a host read or a command of this transaction reads are written (70_reset_and_hazards.md R205, R208). -/
def transactionReadsWritten (t : Transaction) (s : State) : Bool :=
  match t with
  | .read n =>
    match regName s.chainMax n with
    | .data i => s.x[i].written
    | .cmd => true
    | .status => true
    | .ecmd => true
    | .chlen => true
    | .la i => s.table[i]?.all fun l => l.a.written
    | .lb i => s.table[i]?.all fun l => l.b.written
    | .unimplemented => true
  | .write n v =>
    if n = cmdNumber then
      match decode v with
      | .legal i => commandReadsWritten i s
      | .illegal _ => true
    else true
  | .reset => true

/-- The next transaction, if any, reads written words only. -/
def readsWritten (s : State) : Bool :=
  match s.script with
  | [] => true
  | t :: rest => transactionReadsWritten t { s with script := rest }

/-- Two words that are both unwritten, or both written and equal. -/
def SameSlot (p q : Slot) : Prop := p.written = q.written ∧ (p.written = true → p.value = q.value)

/-- Two states that differ at most in the values of words unwritten in both (70_reset_and_hazards.md R202). -/
def SameWritten (s t : State) : Prop :=
  (∀ r : DReg, SameSlot s.x[r] t.x[r]) ∧
  List.Forall₂ (fun l m => SameSlot l.a m.a ∧ SameSlot l.b m.b) s.table t.table ∧
  s.err = t.err ∧ s.erridx = t.erridx ∧ s.ecmd = t.ecmd ∧ s.chlen = t.chlen ∧
  s.script = t.script ∧ s.replies = t.replies

/-- The invariant of 10_state.md R41, `err = 0 → erridx = 0 ∧ ecmd = 0`, with what the latch says of the command that
failed (10_state.md R30, R31; 60_exceptions.md R171 to R174) and the size of the table (00_scope.md R6). -/
def LatchInv (s : State) : Prop :=
  TableSized s ∧
  match s.err with
  | .none => s.erridx = 0#8 ∧ s.ecmd = 0#64
  | .invalidLayer => s.erridx.toNat < s.chainMax ∧
      ∃ rd rs1, s.ecmd = cmdValue (.afwd rd rs1) ∨ s.ecmd = cmdValue (.ainv rd rs1)
  | .notInvertible => s.erridx = 0#8 ∧ ∃ rd rs1, s.ecmd = cmdValue (.modinv rd rs1)
  | .illegalCommand => s.erridx = 0#8 ∧ ∃ why, decode s.ecmd = .illegal why
  | .chainLength => s.erridx = 0#8 ∧
      ∃ rd rs1, s.ecmd = cmdValue (.afwd rd rs1) ∨ s.ecmd = cmdValue (.ainv rd rs1)

end Sys2Proof.Machine
end

