-- ==== Sys2Proof/Certificates/Slice0/Obligations.lean ====
section
/-! DEFINITION. The statements for the provers, from the numbered rules of spec/, and the few terms they are written in. -/

namespace Sys2Proof.Claims

open Sys2Proof.Machine

/-- `a[0] = 1` (00_scope.md R12), said over ℕ. -/
def OddValue (a : RingValue) : Prop := a.toNat % 2 = 1

/-- `LA[i]` (10_state.md R34). -/
def layerA (s : State) (i : Nat) : RingValue := (s.table[i]?.map fun l => l.a.value).getD 0#64

/-- `LB[i]` (10_state.md R34). -/
def layerB (s : State) (i : Nat) : RingValue := (s.table[i]?.map fun l => l.b.value).getD 0#64

/-- The loop of AFWD over the first `k` entries, the index rising (42_affine.md R133). -/
def forwardLoop (s : State) : Nat → RingValue → RingValue
  | 0, v => v
  | k + 1, v => layerA s k * forwardLoop s k v + layerB s k

/-- The loop of AINV over the first `k` entries, the index falling (42_affine.md R135). -/
def inverseLoop (s : State) : Nat → RingValue → RingValue
  | 0, v => v
  | k + 1, v => inverseLoop s k (inv64 (layerA s k) * (v - layerB s k))

/-- The product of the first `k` multipliers, mod 2^64 (42_affine.md R134). -/
def productLoop (s : State) : Nat → RingValue
  | 0 => 1#64
  | k + 1 => layerA s k * productLoop s k

/-- Validation passes (42_affine.md R132). -/
def ChainPasses (s : State) : Prop :=
  s.chlen.toNat ≤ s.chainMax ∧ ∀ k < s.chlen.toNat, OddValue (layerA s k)

/-- The invariant the rules of 10_state.md R41 give: with no error latched ERRIDX and ECMD are 0. -/
def NothingRecordedWhenClear (s : State) : Prop := s.err = .none → s.erridx = 0#8 ∧ s.ecmd = 0#64

/-- The state after the command `i` raises an error: the three latch fields and nothing else (60_exceptions.md R180). -/
def raised (e : ErrCode) (idx : BitVec 8) (i : Instr) (s : State) : State :=
  { s with err := e, erridx := idx, ecmd := cmdValue i }

/-- The word of the command `i` matches `pattern` under `mask`, and the decoder reads `i` from it (30_encoding.md R86). -/
def Spells (i : Instr) (pattern mask : CmdWord) : Prop :=
  encode i &&& mask = pattern ∧ decode (cmdValue i) = .legal i

/-- The errors of a chain command `i`: ChainLength before any layer is looked at, else InvalidLayer with the lowest index of
an even multiplier, which fits ERRIDX (42_affine.md R132, 10_state.md R30). -/
def ChainErrors (i : Instr) (s : State) : Prop :=
  (Clear s → s.chainMax < s.chlen.toNat → exec i s = .next (raised .chainLength 0#8 i s)) ∧
  ∀ k, Clear s → s.chlen.toNat ≤ s.chainMax → k < s.chlen.toNat → ¬ OddValue (layerA s k) →
    (∀ j < k, OddValue (layerA s j)) →
    exec i s = .next (raised .invalidLayer (BitVec.ofNat 8 k) i s) ∧
      (s.chainMax ≤ 256 → (BitVec.ofNat 8 k).toNat = k)

/-- The four cases of 30_encoding.md R90, bit ranges as the rule gives them. -/
def IllegalByRule (v : RingValue) : Prop :=
  v.extractLsb' 32 32 ≠ 0#32 ∨
  (v.extractLsb' 0 8).toNat = 0 ∨ 8 ≤ (v.extractLsb' 0 8).toNat ∨
  (1 ≤ (v.extractLsb' 0 8).toNat ∧ (v.extractLsb' 0 8).toNat ≤ 4 ∧
    (v.extractLsb' 11 1 ≠ 0#1 ∨ v.extractLsb' 15 17 ≠ 0#17)) ∨
  ((v.extractLsb' 0 8).toNat = 5 ∧
    (v.extractLsb' 11 1 ≠ 0#1 ∨ v.extractLsb' 15 5 ≠ 0#5 ∨ v.extractLsb' 23 9 ≠ 0#9 ∨
      v.extractLsb' 8 3 = v.extractLsb' 20 3)) ∨
  ((v.extractLsb' 0 8).toNat = 6 ∧
    (v.extractLsb' 11 1 ≠ 0#1 ∨ v.extractLsb' 15 1 ≠ 0#1 ∨ v.extractLsb' 19 13 ≠ 0#13)) ∨
  ((v.extractLsb' 0 8).toNat = 7 ∧ v.extractLsb' 8 24 ≠ 0#24)

/-- Register number `n` names nothing (20_memory.md R51). -/
def Unimplemented (s : State) (n : RegNum) : Prop :=
  (0x008 ≤ n.toNat ∧ n.toNat ≤ 0x00F) ∨ (0x014 ≤ n.toNat ∧ n.toNat ≤ 0x1FF) ∨ 0x200 + 2 * s.chainMax ≤ n.toNat

/-- Register number `n` stores what the host writes: D0 to D7, CHLEN, LA, LB (20_memory.md R51). -/
def Stores (s : State) (n : RegNum) : Prop :=
  n.toNat < 8 ∨ n.toNat = 0x013 ∨ (0x200 ≤ n.toNat ∧ n.toNat < 0x200 + 2 * s.chainMax)

/-- The column HostRead of the map (20_memory.md R51). -/
def readColumn (s : State) (n : RegNum) : Reply :=
  if h : n.toNat < 8 then .value (s.x[n.toNat]'h).value
  else if n.toNat = 0x011 then .value (s.erridx ++ 0#4 ++ errNumber s.err |>.setWidth 64)
  else if n.toNat = 0x012 then .value s.ecmd
  else if n.toNat = 0x013 then .value s.chlen
  else if 0x200 ≤ n.toNat ∧ n.toNat < 0x200 + 2 * s.chainMax then
    if n.toNat % 2 = 0 then .value (layerA s ((n.toNat - 0x200) / 2)) else .value (layerB s ((n.toNat - 0x201) / 2))
  else .accessError

/-- The state after the first transaction of the script is done, its reply returned, and nothing else changed. That the
transactions to come and the results returned are held in the state is the model's choice (log 4, 6). -/
def onlyReplied (r : Reply) (rest : List Transaction) (s : State) : State :=
  { s with script := rest, replies := r :: s.replies }

end Sys2Proof.Claims

open Sys2Proof Sys2Proof.Machine Sys2Proof.Claims

/-! ## The arithmetic -/

/-- 00_scope.md R14: the floor square root over ℕ, unique, at most 2^32 − 1. -/
def Obligations.IsqrtIsTheUniqueFloorRoot : Prop :=
  ∀ n : Nat, n < 2 ^ 64 →
    isqrt n * isqrt n ≤ n ∧ n < (isqrt n + 1) * (isqrt n + 1) ∧ isqrt n ≤ 2 ^ 32 - 1 ∧
    ∀ r, r * r ≤ n → n < (r + 1) * (r + 1) → r = isqrt n

/-- 00_scope.md R15: the inverse of an odd value, unique; an even value has none. -/
def Obligations.Inv64IsTheUniqueInverse : Prop :=
  ∀ a : RingValue,
    (OddValue a → mul64 a (inv64 a) = 1#64 ∧ ∀ b, mul64 a b = 1#64 → b = inv64 a) ∧
    (¬ OddValue a → ∀ b, mul64 a b ≠ 1#64)

/-- 41_modinv.md R121 (a) to (e). -/
def Obligations.InverseLawsOfOddValues : Prop :=
  (∀ a : RingValue, OddValue a →
    mul64 a (inv64 a) = 1#64 ∧ mul64 (inv64 a) a = 1#64 ∧ OddValue (inv64 a) ∧ inv64 (inv64 a) = a ∧
    ∀ c, OddValue c → inv64 (mul64 a c) = mul64 (inv64 a) (inv64 c)) ∧
  ∀ (rd rs1 : DReg) (s t : State), Clear s → Clear t → OddValue (readData rs1 s) →
    readData rs1 s = readData rs1 t →
    ∃ w, exec (.modinv rd rs1) s = .next (writeData rd w s) ∧ exec (.modinv rd rs1) t = .next (writeData rd w t)

/-- 41_modinv.md R122, R123 and 90_conflicts.md C2: an update doubles the correct low bits; five give the inverse, and more
are harmless. -/
def Obligations.FiveNewtonUpdatesSuffice : Prop :=
  (∀ (a inv : RingValue) (k : Nat), k ≤ 32 → (mul64 a inv).toNat % 2 ^ k = 1 % 2 ^ k →
    (mul64 a (newtonFrom a 1 inv)).toNat % 2 ^ (2 * k) = 1 % 2 ^ (2 * k)) ∧
  ∀ (a : RingValue) (k : Nat), OddValue a → 5 ≤ k → newtonFrom a k a = inv64 a

/-- 40_isqrt.md R113: the bit-pair algorithm returns the floor root, and its last `rem` is the remainder. -/
def Obligations.BitPairRootAgreesWithFloorRoot : Prop :=
  ∀ a : RingValue, (isqrtRef a).1.toNat = isqrt a.toNat ∧
    (isqrtRef a).2.toNat = a.toNat - isqrt a.toNat * isqrt a.toNat

/-! ## The commands -/

/-- 40_isqrt.md R110. -/
def Obligations.IsqrtWritesFloorRoot : Prop :=
  ∀ (rd rs1 : DReg) (s : State),
    Spells (.isqrt rd rs1) 0x00000001#32 0xFFFF88FF#32 ∧
    (Latched s → exec (.isqrt rd rs1) s = .next s) ∧
    (Clear s → ∃ r : Nat, r * r ≤ (readData rs1 s).toNat ∧ (readData rs1 s).toNat < (r + 1) * (r + 1) ∧
      r ≤ 2 ^ 32 - 1 ∧ exec (.isqrt rd rs1) s = .next (writeData rd (BitVec.ofNat 64 r) s))

/-- 41_modinv.md R120. -/
def Obligations.ModinvWritesInverseOrRaises : Prop :=
  ∀ (rd rs1 : DReg) (s : State),
    Spells (.modinv rd rs1) 0x00000002#32 0xFFFF88FF#32 ∧
    (Latched s → exec (.modinv rd rs1) s = .next s) ∧
    (Clear s → OddValue (readData rs1 s) → ∃ inv : RingValue,
      readData rs1 s * inv = 1#64 ∧ OddValue inv ∧ exec (.modinv rd rs1) s = .next (writeData rd inv s)) ∧
    (Clear s → ¬ OddValue (readData rs1 s) →
      exec (.modinv rd rs1) s = .next (raised .notInvertible 0#8 (.modinv rd rs1) s))

/-- 42_affine.md R133. -/
def Obligations.AfwdAppliesChainInRisingOrder : Prop :=
  ∀ (rd rs1 : DReg) (s : State),
    Spells (.afwd rd rs1) 0x00000003#32 0xFFFF88FF#32 ∧
    (Latched s → exec (.afwd rd rs1) s = .next s) ∧
    (Clear s → ChainPasses s →
      exec (.afwd rd rs1) s = .next (writeData rd (forwardLoop s s.chlen.toNat (readData rs1 s)) s)) ∧
    ChainErrors (.afwd rd rs1) s

/-- 42_affine.md R135. -/
def Obligations.AinvAppliesChainInFallingOrder : Prop :=
  ∀ (rd rs1 : DReg) (s : State),
    Spells (.ainv rd rs1) 0x00000004#32 0xFFFF88FF#32 ∧
    (Latched s → exec (.ainv rd rs1) s = .next s) ∧
    (Clear s → ChainPasses s →
      exec (.ainv rd rs1) s = .next (writeData rd (inverseLoop s s.chlen.toNat (readData rs1 s)) s)) ∧
    ChainErrors (.ainv rd rs1) s

/-- 43_geometric.md R150. -/
def Obligations.DecompWritesRootAndRemainder : Prop :=
  ∀ (rd rd2 rs1 : DReg) (s : State),
    (rd ≠ rd2 → Spells (.decomp rd rd2 rs1) 0x00000005#32 0xFF8F88FF#32) ∧
    (rd = rd2 → decode (cmdValue (.decomp rd rd2 rs1)) = .illegal .sameDestination) ∧
    (Latched s → exec (.decomp rd rd2 rs1) s = .next s) ∧
    (rd ≠ rd2 → Clear s → ∃ r : Nat, r * r ≤ (readData rs1 s).toNat ∧ (readData rs1 s).toNat < (r + 1) * (r + 1) ∧
      exec (.decomp rd rd2 rs1) s = .next
        (writeData rd2 (BitVec.ofNat 64 ((readData rs1 s).toNat - r * r)) (writeData rd (BitVec.ofNat 64 r) s)))

/-- 43_geometric.md R152. -/
def Obligations.ReconRebuildsValue : Prop :=
  ∀ (rd rs1 rs2 : DReg) (s : State),
    Spells (.recon rd rs1 rs2) 0x00000006#32 0xFFF888FF#32 ∧
    (Latched s → exec (.recon rd rs1 rs2) s = .next s) ∧
    (Clear s → exec (.recon rd rs1 rs2) s =
      .next (writeData rd (readData rs1 s * readData rs1 s + readData rs2 s) s))

/-- 44_system.md R160: the single word of CLRERR, its effect from every state, and that no other value spells it: one with
opcode 07 is illegal, and no value but 7 changes anything while an error is latched. -/
def Obligations.ClrerrClearsTheLatch : Prop :=
  Spells .clrerr 0x00000007#32 0xFFFFFFFF#32 ∧
  (∀ s : State, exec .clrerr s = .next { s with err := .none, erridx := 0#8, ecmd := 0#64 }) ∧
  (∀ s : State, Clear s → NothingRecordedWhenClear s → exec .clrerr s = .next s) ∧
  (∀ v : RingValue, decode v = .legal .clrerr ↔ v = 7#64) ∧
  (∀ v : RingValue, v.extractLsb' 0 8 = 7#8 → v ≠ 7#64 → ∃ why, decode v = .illegal why) ∧
  (∀ (v : RingValue) (s : State), v ≠ 7#64 → Latched s → execCmd v s = .next s)

/-! ## What the commands do together -/

/-- 42_affine.md R136: AINV undoes AFWD and AFWD undoes AINV, as commands and layer by layer. That the two
commands read the same value from a word LA[i] or LB[i] not written since reset is the model's choice (log 11). -/
def Obligations.AffineRoundTrip : Prop :=
  (∀ (dX dY dZ : DReg) (s : State), Clear s → ChainPasses s →
    (∃ t u, exec (.afwd dY dX) s = .next t ∧ exec (.ainv dZ dY) t = .next u ∧ readData dZ u = readData dX s) ∧
    (∃ t u, exec (.ainv dY dX) s = .next t ∧ exec (.afwd dZ dY) t = .next u ∧ readData dZ u = readData dX s)) ∧
  ∀ a b v : RingValue, OddValue a → mul64 (inv64 a) (sub64 (add64 (mul64 a v) b) b) = v

/-- 42_affine.md R134: AFWD is a bijection, and one affine map with the product of the multipliers, which is odd.
That one command reads an unwritten LA[i] alike in validation and in the transform is the model's choice (log 11). -/
def Obligations.AfwdIsAnAffineBijection : Prop :=
  ∀ (rd rs1 : DReg) (s : State), Clear s → ChainPasses s →
    ∃ f : RingValue → RingValue, Function.Bijective f ∧
      OddValue (productLoop s s.chlen.toNat) ∧
      (∀ v, f v = productLoop s s.chlen.toNat * v + f 0#64) ∧
      ∀ v, exec (.afwd rd rs1) (writeData rs1 v s) = .next (writeData rd (f v) (writeData rs1 v s))

/-- 42_affine.md R137: the empty chain copies, whatever the table holds. -/
def Obligations.EmptyChainCopies : Prop :=
  ∀ (rd rs1 : DReg) (s : State), Clear s → s.chlen = 0#64 →
    exec (.afwd rd rs1) s = .next (writeData rd (readData rs1 s) s) ∧
    exec (.ainv rd rs1) s = .next (writeData rd (readData rs1 s) s)

/-- 42_affine.md R138: the rule's two chains send 10 to 182 and to 176. -/
def Obligations.LayerOrderMatters : Prop :=
  ∀ (rd rs1 : DReg) (s : State), Clear s → s.chlen = 2#64 → 2 ≤ s.chainMax → readData rs1 s = 10#64 →
    (layerA s 0 = 3#64 → layerB s 0 = 5#64 → layerA s 1 = 5#64 → layerB s 1 = 7#64 →
      exec (.afwd rd rs1) s = .next (writeData rd 182#64 s)) ∧
    (layerA s 0 = 5#64 → layerB s 0 = 7#64 → layerA s 1 = 3#64 → layerB s 1 = 5#64 →
      exec (.afwd rd rs1) s = .next (writeData rd 176#64 s))

/-- 43_geometric.md R151: what holds of every pair DECOMP writes, in ℕ, and that no other pair does. -/
def Obligations.DecompPairIsTheUniqueDecomposition : Prop :=
  ∀ (rd rd2 rs1 : DReg) (s : State), rd ≠ rd2 → Clear s →
    ∃ t, exec (.decomp rd rd2 rs1) s = .next t ∧
      (readData rd t).toNat * (readData rd t).toNat ≤ (readData rs1 s).toNat ∧
      (readData rd2 t).toNat = (readData rs1 s).toNat - (readData rd t).toNat * (readData rd t).toNat ∧
      (readData rd2 t).toNat ≤ 2 * (readData rd t).toNat ∧
      (readData rd t).toNat ≤ 2 ^ 32 - 1 ∧ (readData rd2 t).toNat ≤ 2 ^ 33 - 2 ∧
      (mul64 (readData rd t) (readData rd t)).toNat = (readData rd t).toNat * (readData rd t).toNat ∧
      (sub64 (readData rs1 s) (mul64 (readData rd t) (readData rd t))).toNat =
        (readData rs1 s).toNat - (readData rd t).toNat * (readData rd t).toNat ∧
      ∀ r rem : Nat, rem ≤ 2 * r → r * r + rem = (readData rs1 s).toNat →
        r = (readData rd t).toNat ∧ rem = (readData rd2 t).toNat

/-- 43_geometric.md R153: RECON of the pair DECOMP wrote gives the value back, and the remainder is at most twice the
root. -/
def Obligations.DecompReconRoundTrip : Prop :=
  ∀ (dR dM dS dD : DReg) (s : State), dR ≠ dM → Clear s →
    ∃ t u, exec (.decomp dR dM dS) s = .next t ∧ exec (.recon dD dR dM) t = .next u ∧
      readData dD u = readData dS s ∧ (readData dM t).toNat ≤ 2 * (readData dR t).toNat

/-- 43_geometric.md R154: RECON is not injective, and DECOMP after RECON returns the pair exactly when it was valid. -/
def Obligations.DecompAfterReconReturnsValidPairsOnly : Prop :=
  (∀ (rd rs1 rs2 : DReg) (s : State), Clear s →
    (readData rs1 s = 0x100000000#64 → readData rs2 s = 5#64 → exec (.recon rd rs1 rs2) s = .next (writeData rd 5#64 s)) ∧
    (readData rs1 s = 2#64 → readData rs2 s = 1#64 → exec (.recon rd rs1 rs2) s = .next (writeData rd 5#64 s))) ∧
  ∀ (dR dM dD eR eM : DReg) (s : State), eR ≠ eM → Clear s →
    ∃ t u, exec (.recon dD dR dM) s = .next t ∧ exec (.decomp eR eM dD) t = .next u ∧
      (readData eR u = readData dR s ∧ readData eM u = readData dM s ↔
        (readData dM s).toNat ≤ 2 * (readData dR s).toNat ∧ (readData dR s).toNat ≤ 2 ^ 32 - 1)

/-- 43_geometric.md R155: DECOMP is ISQRT of the same source and the remainder beside it. That both read
the same value from a source not written since reset is the model's choice (log 11). -/
def Obligations.DecompIsIsqrtWithRemainder : Prop :=
  ∀ (dR dM dS : DReg) (s : State), dR ≠ dM → Clear s →
    ∃ u, exec (.isqrt dR dS) s = .next u ∧
      exec (.decomp dR dM dS) s =
        .next (writeData dM (readData dS s - readData dR u * readData dR u) u)

/-! ## Frames -/

/-- ISQRT and RECON change nothing but `x[rd]` (40_isqrt.md R110, 43_geometric.md R152, 10_state.md R22). -/
def Obligations.IsqrtReconFrame : Prop :=
  ∀ (i : Instr) (rd rs1 rs2 : DReg) (s t : State), i = .isqrt rd rs1 ∨ i = .recon rd rs1 rs2 → exec i s = .next t →
    (∀ r, r ≠ rd → t.x[r] = s.x[r]) ∧ t.err = s.err ∧ t.erridx = s.erridx ∧ t.ecmd = s.ecmd ∧
    t.chlen = s.chlen ∧ t.table = s.table ∧ t.script = s.script ∧ t.replies = s.replies

/-- MODINV, AFWD and AINV change `x[rd]` alone, or the three latch fields alone (41_modinv.md R120, 42_affine.md R133, R135,
60_exceptions.md R181). -/
def Obligations.ModinvAfwdAinvFrame : Prop :=
  ∀ (i : Instr) (rd rs1 : DReg) (s t : State), i = .modinv rd rs1 ∨ i = .afwd rd rs1 ∨ i = .ainv rd rs1 →
    exec i s = .next t →
    (∀ r, r ≠ rd → t.x[r] = s.x[r]) ∧ t.chlen = s.chlen ∧ t.table = s.table ∧
    t.script = s.script ∧ t.replies = s.replies ∧
    ((t.err = s.err ∧ t.erridx = s.erridx ∧ t.ecmd = s.ecmd) ∨ (Clear s ∧ Latched t ∧ t.x = s.x))

/-- DECOMP with two different destinations changes nothing but `x[rd]` and `x[rd2]`; with equal ones, no register
(43_geometric.md R150, 30_encoding.md R90). -/
def Obligations.DecompFrame : Prop :=
  ∀ (rd rd2 rs1 : DReg) (s t : State), exec (.decomp rd rd2 rs1) s = .next t →
    (∀ r, r ≠ rd → r ≠ rd2 → t.x[r] = s.x[r]) ∧ t.chlen = s.chlen ∧ t.table = s.table ∧
    t.script = s.script ∧ t.replies = s.replies ∧
    (rd ≠ rd2 → t.err = s.err ∧ t.erridx = s.erridx ∧ t.ecmd = s.ecmd) ∧ (rd = rd2 → t.x = s.x)

/-- CLRERR changes no data register, no table word and not CHLEN (44_system.md R160). -/
def Obligations.ClrerrFrame : Prop :=
  ∀ s t : State, exec .clrerr s = .next t →
    t.x = s.x ∧ t.chlen = s.chlen ∧ t.table = s.table ∧ t.script = s.script ∧ t.replies = s.replies

/-- No value written to CMD changes the layer table or CHLEN (10_state.md R36). -/
def Obligations.CommandsNeverWriteTheChain : Prop :=
  ∀ (v : RingValue) (s : State), ∃ t, execCmd v s = .next t ∧ t.table = s.table ∧ t.chlen = s.chlen

/-! ## Errors and the latch -/

/-- 60_exceptions.md R180, R181: a CMD write that raises an error has changed the three latch fields only, and ECMD is the
value written. -/
def Obligations.ErrorChangesOnlyTheLatch : Prop :=
  ∀ (v : RingValue) (s t : State), Clear s → execCmd v s = .next t → Latched t →
    t = { s with err := t.err, erridx := t.erridx, ecmd := v } ∧ (t.err ≠ .invalidLayer → t.erridx = 0#8)

/-- 60_exceptions.md R184: while an error is latched a CMD write of anything but a legal CLRERR changes no state (how the
step takes and answers it: log 4, 6). -/
def Obligations.LatchedCommandsDoNothing : Prop :=
  ∀ (v : RingValue) (rest : List Transaction) (s : State), Latched s → s.script = .write 0x010#12 v :: rest →
    v ≠ 7#64 → step s = .next (onlyReplied .ok rest s)

/-- 60_exceptions.md R185: only CLRERR and HostReset lead out of the latched state (script: log 4). -/
def Obligations.OnlyClrerrOrResetLeavesTheLatch : Prop :=
  (∀ s t : State, Latched s → step s = .next t → Clear t →
    ∃ rest, s.script = .reset :: rest ∨ s.script = .write 0x010#12 7#64 :: rest) ∧
  (∀ (rest : List Transaction) (s : State), s.script = .reset :: rest ∨ s.script = .write 0x010#12 7#64 :: rest →
    ∃ t, step s = .next t ∧ Clear t)

/-- 60_exceptions.md R186: errors do not nest; what the latch records stays as it is while it is latched (script: log 4). -/
def Obligations.FirstErrorIsKept : Prop :=
  ∀ s t : State, Latched s → step s = .next t → Latched t →
    t.err = s.err ∧ t.erridx = s.erridx ∧ t.ecmd = s.ecmd

/-- 60_exceptions.md R183, 20_memory.md R51: the CMD write returns Ok in every case (log 4, 6). -/
def Obligations.CmdWriteAlwaysReturnsOk : Prop :=
  ∀ (v : RingValue) (rest : List Transaction) (s : State), s.script = .write 0x010#12 v :: rest →
    ∃ t, step s = .next t ∧ t.replies = .ok :: s.replies ∧ t.script = rest

/-- 60_exceptions.md R173: an illegal value written with no error latched, as a step (log 4, 6). -/
def Obligations.IllegalCommandIsRecorded : Prop :=
  ∀ (v : RingValue) (rest : List Transaction) (s : State), Clear s → s.script = .write 0x010#12 v :: rest →
    IllegalByRule v →
    step s = .next { onlyReplied .ok rest s with err := .illegalCommand, erridx := 0#8, ecmd := v }

/-- 44_system.md R161: a failed command is not undone, for it did nothing: CLRERR after it gives the state before it. -/
def Obligations.ClrerrAfterErrorIsTheStateBefore : Prop :=
  ∀ (v : RingValue) (s t : State), Clear s → NothingRecordedWhenClear s → execCmd v s = .next t → Latched t →
    exec .clrerr t = .next s

/-! ## Encoding and the step -/

/-- 30_encoding.md R90, R91, R92: the illegal values are those of the four cases; what they do with the latch clear and
set; every other value is a command. -/
def Obligations.IllegalExactlyByTheFourCases : Prop :=
  ∀ v : RingValue,
    (IllegalByRule v → (∃ why, decode v = .illegal why) ∧
      ∀ s, (Clear s → execCmd v s = .next { s with err := .illegalCommand, erridx := 0#8, ecmd := v }) ∧
        (Latched s → execCmd v s = .next s)) ∧
    (¬ IllegalByRule v → ∃ i, decode v = .legal i)

/-- The decoder reads back every well-formed command from its word (30_encoding.md R93, R97). -/
def Obligations.DecodeOfEncodeIsTheCommand : Prop :=
  ∀ i : Instr, i.wf = true → decode (cmdValue i) = .legal i

/-- Decoding is injective on legal values: the value is the encoding of what is read from it (30_encoding.md R93). -/
def Obligations.LegalValueIsTheEncodingOfItsCommand : Prop :=
  ∀ (v : RingValue) (i : Instr), decode v = .legal i → i.wf = true ∧ cmdValue i = v

/-- The words of 30_encoding.md R97, and illegal ones of 95_test_vectors.md 2.5. -/
def Obligations.WordsOfTheSpecDecode : Prop :=
  decode 0x00000101#64 = .legal (.isqrt 1 0) ∧ decode 0x00001202#64 = .legal (.modinv 2 1) ∧
  decode 0x00001303#64 = .legal (.afwd 3 1) ∧ decode 0x00003504#64 = .legal (.ainv 5 3) ∧
  decode 0x00200105#64 = .legal (.decomp 1 2 0) ∧ decode 0x00065706#64 = .legal (.recon 7 5 6) ∧
  decode 0x00000007#64 = .legal .clrerr ∧ decode 0x00007701#64 = .legal (.isqrt 7 7) ∧
  decode 0x00000000#64 = .illegal .reservedOpcode ∧ decode 0x00000901#64 = .illegal .reservedBits ∧
  decode 0x00100105#64 = .illegal .sameDestination ∧ decode 0x0000000100000101#64 = .illegal .highHalf

/-- A step whose transaction writes a legal command to CMD is `exec` of it on the state without that transaction, with Ok
returned; a step with no transaction to come changes nothing (60_exceptions.md R179, R188; log 4). -/
def Obligations.StepRunsTheDecodedCommand : Prop :=
  (∀ (v : RingValue) (i : Instr) (rest : List Transaction) (s : State), s.script = .write 0x010#12 v :: rest →
    decode v = .legal i →
    step s = match exec i { s with script := rest } with
      | .next t => .next { t with replies := .ok :: t.replies }
      | .fault r => .fault r
      | .refused r => .refused r) ∧
  ∀ s : State, s.script = [] → step s = .next s

/-- Every transaction completes and nothing is stuck (60_exceptions.md R190). That no step is refused is the model's own
choice, log 14, and no rule of the spec: R190 calls the read of an unwritten word the one place the model refuses, and the
model gives it a value instead (log 1, 2, 11). -/
def Obligations.EveryStepCompletes : Prop := ∀ s : State, ∃ t, step s = .next t

/-! ## The host's registers -/

/-- 20_memory.md R51, R55: HostRead returns what the map says and has no side effect (log 4, 6; what an unwritten word reads
as is the model's choice, log 1, 2). -/
def Obligations.HostReadFollowsTheMap : Prop :=
  ∀ (n : RegNum) (rest : List Transaction) (s : State), s.script = .read n :: rest →
    step s = .next (onlyReplied (readColumn s n) rest s)

/-- 20_memory.md R51, R54, R55, R62: a HostWrite to a storing register returns Ok, is read back, and has no effect but the
store: every other register number reads as before, and every other word keeps its value and its unwritten mark (how the
transaction is held and answered: log 4, 6). -/
def Obligations.HostWriteIsReadBack : Prop :=
  ∀ (n : RegNum) (v : RingValue) (rest : List Transaction) (s : State), s.script = .write n v :: rest → Stores s n →
    ∃ t, step s = .next t ∧ t.script = rest ∧ t.replies = .ok :: s.replies ∧ t.chainMax = s.chainMax ∧
      readColumn t n = .value v ∧ (∀ m, m ≠ n → readColumn t m = readColumn s m) ∧
      t.err = s.err ∧ t.erridx = s.erridx ∧ t.ecmd = s.ecmd ∧ (n.toNat ≠ 0x013 → t.chlen = s.chlen) ∧
      (∀ r : DReg, t.x[r] = if n.toNat = r.val then ⟨v, true⟩ else s.x[r]) ∧
      ∀ i : Nat, t.table[i]? = s.table[i]?.map fun l =>
        { a := if n.toNat = 0x200 + 2 * i then ⟨v, true⟩ else l.a
          b := if n.toNat = 0x201 + 2 * i then ⟨v, true⟩ else l.b }

/-- 20_memory.md R52: the accesses that return AccessError, and that they change no state at all (log 4, 6). -/
def Obligations.AccessErrorChangesNothing : Prop :=
  (∀ (n : RegNum) (rest : List Transaction) (s : State), s.script = .read n :: rest →
    Unimplemented s n ∨ n.toNat = 0x010 → step s = .next (onlyReplied .accessError rest s)) ∧
  ∀ (n : RegNum) (v : RingValue) (rest : List Transaction) (s : State), s.script = .write n v :: rest →
    Unimplemented s n ∨ n.toNat = 0x011 ∨ n.toNat = 0x012 → step s = .next (onlyReplied .accessError rest s)

/-- 20_memory.md R55: a HostWrite to a storing register done twice is that HostWrite done once (log 4, 6). -/
def Obligations.HostWriteTwiceIsOnce : Prop :=
  ∀ (n : RegNum) (v : RingValue) (rest : List Transaction) (s : State),
    s.script = .write n v :: .write n v :: rest → Stores s n →
    ∃ t, step s = .next t ∧ step t = .next (onlyReplied .ok rest t)

/-- 10_state.md R28, R29, R33: the fields of STATUS; its reserved bits read 0 and ERR is at most 4 in every state. -/
def Obligations.StatusFields : Prop :=
  ∀ (s : State) (v : RingValue), peek 0x011#12 s = some v →
    (v.extractLsb' 0 4 = 0#4 ↔ s.err = .none) ∧ (v.extractLsb' 0 4 = 1#4 ↔ s.err = .invalidLayer) ∧
    (v.extractLsb' 0 4 = 2#4 ↔ s.err = .notInvertible) ∧ (v.extractLsb' 0 4 = 3#4 ↔ s.err = .illegalCommand) ∧
    (v.extractLsb' 0 4 = 4#4 ↔ s.err = .chainLength) ∧ (v.extractLsb' 0 4).toNat ≤ 4 ∧
    v.extractLsb' 4 4 = 0#4 ∧ v.extractLsb' 8 8 = s.erridx ∧ v.extractLsb' 16 48 = 0#48

/-! ## Reset -/

/-- 70_reset_and_hazards.md R204: the reset table (the value of an unwritten word is the model's, log 1 and 2, and is not
stated; the script is the model's, log 4). -/
def Obligations.HostResetLeavesTheResetTable : Prop :=
  ∀ (rest : List Transaction) (s : State), s.script = .reset :: rest →
    ∃ t, step s = .next t ∧ (∀ r : DReg, t.x[r].written = false) ∧ t.err = .none ∧ t.erridx = 0#8 ∧
      statusValue t = 0#64 ∧ t.ecmd = 0#64 ∧ t.chlen = 0#64 ∧ t.chainMax = s.chainMax ∧
      ∀ l ∈ t.table, l.a.written = false ∧ l.b.written = false

/-- The machine right after reset meets the invariant, for every CHAIN_MAX the parameter may take (10_state.md R41,
70_reset_and_hazards.md R201, 00_scope.md R6). -/
def Obligations.ResetMeetsTheLatchInvariant : Prop :=
  LatchInv State.reset ∧ ∀ n : Nat, 1 ≤ n → n ≤ 256 → LatchInv (State.resetOf n)

/-! ## Whole-machine results -/

/-- Every step keeps the invariant of 10_state.md R41 and what STATUS and ECMD say of the command that failed
(10_state.md R29, R30, R31; 60_exceptions.md R171 to R174). -/
def Obligations.EveryStepKeepsTheLatchInvariant : Prop :=
  ∀ s t : State, LatchInv s → step s = .next t → LatchInv t

/-- The values of unwritten words never reach a result: two states that differ only in them, whose next transaction reads
written words only, go to two such states (70_reset_and_hazards.md R202, R205; log 1, 2, 11). -/
def Obligations.UnwrittenValuesNeverReachAResult : Prop :=
  ∀ s t s' t' : State, SameWritten s t → readsWritten s = true → step s = .next s' → step t = .next t' →
    SameWritten s' t'

/-! ## The host side -/

/-- 20_memory.md R58, R59: Pack is the big-endian value of exactly 8 bytes, byte `k` of Unpack is `v[63-8k:56-8k]`, and they
undo each other. -/
def Obligations.PackAndUnpackAreInverse : Prop :=
  (∀ p : List Byte, p.length = 8 → ∃ v, pack p = some v ∧ unpackBytes v = p ∧
    v.toNat = ∑ k ∈ Finset.range 8, (p.getD k 0#8).toNat * 2 ^ (8 * (7 - k))) ∧
  (∀ p : List Byte, p.length ≠ 8 → pack p = none) ∧
  ∀ v : RingValue, pack (unpackBytes v) = some v ∧
    ∀ k : Nat, k < 8 → (unpackBytes v)[k]? = some (v.extractLsb' (56 - 8 * k) 8)
end

