-- ==== Sys2Proof/Laws/State.lean ====
section
/-! SUPPORT. What each update of the state does to each field, so that no proof unfolds a record update. -/

namespace Sys2Proof.Machine

/-! ### Writing a data register -/

@[simp] theorem readData_writeData_same (r : DReg) (v : RingValue) (s : State) :
    readData r (writeData r v s) = v := by
  simp [readData, writeData]

@[simp] theorem x_writeData_same (r : DReg) (v : RingValue) (s : State) : (writeData r v s).x[r] = ⟨v, true⟩ := by
  simp [writeData]

theorem x_writeData_ne {r q : DReg} (h : q ≠ r) (v : RingValue) (s : State) : (writeData r v s).x[q] = s.x[q] := by
  have hv : r.val ≠ q.val := fun e => h (Fin.ext e.symm)
  simp [writeData, hv]

theorem readData_writeData_ne {r q : DReg} (h : q ≠ r) (v : RingValue) (s : State) :
    readData q (writeData r v s) = readData q s := by
  simp only [readData, x_writeData_ne h]

@[simp] theorem writeData_err (r : DReg) (v : RingValue) (s : State) : (writeData r v s).err = s.err := rfl
@[simp] theorem writeData_erridx (r : DReg) (v : RingValue) (s : State) : (writeData r v s).erridx = s.erridx := rfl
@[simp] theorem writeData_ecmd (r : DReg) (v : RingValue) (s : State) : (writeData r v s).ecmd = s.ecmd := rfl
@[simp] theorem writeData_chlen (r : DReg) (v : RingValue) (s : State) : (writeData r v s).chlen = s.chlen := rfl
@[simp] theorem writeData_table (r : DReg) (v : RingValue) (s : State) : (writeData r v s).table = s.table := rfl
@[simp] theorem writeData_script (r : DReg) (v : RingValue) (s : State) : (writeData r v s).script = s.script := rfl
@[simp] theorem writeData_replies (r : DReg) (v : RingValue) (s : State) : (writeData r v s).replies = s.replies := rfl
@[simp] theorem writeData_chainMax (r : DReg) (v : RingValue) (s : State) : (writeData r v s).chainMax = s.chainMax := rfl
@[simp] theorem writeData_chain (r : DReg) (v : RingValue) (s : State) : chain (writeData r v s) = chain s := rfl

/-! ### Writing a table word -/

@[simp] theorem writeLA_x (i : Nat) (v : RingValue) (s : State) : (writeLA i v s).x = s.x := rfl
@[simp] theorem writeLA_err (i : Nat) (v : RingValue) (s : State) : (writeLA i v s).err = s.err := rfl
@[simp] theorem writeLA_erridx (i : Nat) (v : RingValue) (s : State) : (writeLA i v s).erridx = s.erridx := rfl
@[simp] theorem writeLA_ecmd (i : Nat) (v : RingValue) (s : State) : (writeLA i v s).ecmd = s.ecmd := rfl
@[simp] theorem writeLA_chlen (i : Nat) (v : RingValue) (s : State) : (writeLA i v s).chlen = s.chlen := rfl
@[simp] theorem writeLA_script (i : Nat) (v : RingValue) (s : State) : (writeLA i v s).script = s.script := rfl
@[simp] theorem writeLA_replies (i : Nat) (v : RingValue) (s : State) : (writeLA i v s).replies = s.replies := rfl

@[simp] theorem writeLA_chainMax (i : Nat) (v : RingValue) (s : State) : (writeLA i v s).chainMax = s.chainMax := by
  simp [writeLA, State.chainMax]

theorem writeLA_entry (i j : Nat) (v : RingValue) (s : State) :
    (writeLA i v s).table[j]? = if i = j then s.table[j]?.map fun l => { l with a := ⟨v, true⟩ } else s.table[j]? := by
  by_cases h : i = j <;> simp [writeLA, h]

@[simp] theorem writeLB_x (i : Nat) (v : RingValue) (s : State) : (writeLB i v s).x = s.x := rfl
@[simp] theorem writeLB_err (i : Nat) (v : RingValue) (s : State) : (writeLB i v s).err = s.err := rfl
@[simp] theorem writeLB_erridx (i : Nat) (v : RingValue) (s : State) : (writeLB i v s).erridx = s.erridx := rfl
@[simp] theorem writeLB_ecmd (i : Nat) (v : RingValue) (s : State) : (writeLB i v s).ecmd = s.ecmd := rfl
@[simp] theorem writeLB_chlen (i : Nat) (v : RingValue) (s : State) : (writeLB i v s).chlen = s.chlen := rfl
@[simp] theorem writeLB_script (i : Nat) (v : RingValue) (s : State) : (writeLB i v s).script = s.script := rfl
@[simp] theorem writeLB_replies (i : Nat) (v : RingValue) (s : State) : (writeLB i v s).replies = s.replies := rfl

@[simp] theorem writeLB_chainMax (i : Nat) (v : RingValue) (s : State) : (writeLB i v s).chainMax = s.chainMax := by
  simp [writeLB, State.chainMax]

theorem writeLB_entry (i j : Nat) (v : RingValue) (s : State) :
    (writeLB i v s).table[j]? = if i = j then s.table[j]?.map fun l => { l with b := ⟨v, true⟩ } else s.table[j]? := by
  by_cases h : i = j <;> simp [writeLB, h]

/-! ### Writing CHLEN -/

@[simp] theorem writeChlen_x (v : RingValue) (s : State) : (writeChlen v s).x = s.x := rfl
@[simp] theorem writeChlen_err (v : RingValue) (s : State) : (writeChlen v s).err = s.err := rfl
@[simp] theorem writeChlen_erridx (v : RingValue) (s : State) : (writeChlen v s).erridx = s.erridx := rfl
@[simp] theorem writeChlen_ecmd (v : RingValue) (s : State) : (writeChlen v s).ecmd = s.ecmd := rfl
@[simp] theorem writeChlen_chlen (v : RingValue) (s : State) : (writeChlen v s).chlen = v := rfl
@[simp] theorem writeChlen_table (v : RingValue) (s : State) : (writeChlen v s).table = s.table := rfl
@[simp] theorem writeChlen_script (v : RingValue) (s : State) : (writeChlen v s).script = s.script := rfl
@[simp] theorem writeChlen_replies (v : RingValue) (s : State) : (writeChlen v s).replies = s.replies := rfl

/-! ### Raising and clearing an error -/

section latch
variable (e : ErrCode) (idx : BitVec 8) (v : RingValue) (s : State)

@[simp] theorem raiseError_x : (raiseError e idx v s).x = s.x := rfl
@[simp] theorem raiseError_err : (raiseError e idx v s).err = e := rfl
@[simp] theorem raiseError_erridx : (raiseError e idx v s).erridx = idx := rfl
@[simp] theorem raiseError_ecmd : (raiseError e idx v s).ecmd = v := rfl
@[simp] theorem raiseError_chlen : (raiseError e idx v s).chlen = s.chlen := rfl
@[simp] theorem raiseError_table : (raiseError e idx v s).table = s.table := rfl
@[simp] theorem raiseError_script : (raiseError e idx v s).script = s.script := rfl
@[simp] theorem raiseError_replies : (raiseError e idx v s).replies = s.replies := rfl

@[simp] theorem clearError_x : (clearError s).x = s.x := rfl
@[simp] theorem clearError_err : (clearError s).err = .none := rfl
@[simp] theorem clearError_erridx : (clearError s).erridx = 0#8 := rfl
@[simp] theorem clearError_ecmd : (clearError s).ecmd = 0#64 := rfl
@[simp] theorem clearError_chlen : (clearError s).chlen = s.chlen := rfl
@[simp] theorem clearError_table : (clearError s).table = s.table := rfl
@[simp] theorem clearError_script : (clearError s).script = s.script := rfl
@[simp] theorem clearError_replies : (clearError s).replies = s.replies := rfl

end latch

/-! ### Returning a result to the host -/

section replied
variable (r : Reply) (s : State)

@[simp] theorem reply_x : (reply r s).x = s.x := rfl
@[simp] theorem reply_err : (reply r s).err = s.err := rfl
@[simp] theorem reply_erridx : (reply r s).erridx = s.erridx := rfl
@[simp] theorem reply_ecmd : (reply r s).ecmd = s.ecmd := rfl
@[simp] theorem reply_chlen : (reply r s).chlen = s.chlen := rfl
@[simp] theorem reply_table : (reply r s).table = s.table := rfl
@[simp] theorem reply_script : (reply r s).script = s.script := rfl
@[simp] theorem reply_replies : (reply r s).replies = r :: s.replies := rfl

end replied

/-! ### HostReset -/

section afterReset
variable (s : State)

@[simp] theorem hostReset_x : (hostReset s).x = Vector.replicate 8 Slot.unwritten := rfl
@[simp] theorem hostReset_err : (hostReset s).err = .none := rfl
@[simp] theorem hostReset_erridx : (hostReset s).erridx = 0#8 := rfl
@[simp] theorem hostReset_ecmd : (hostReset s).ecmd = 0#64 := rfl
@[simp] theorem hostReset_chlen : (hostReset s).chlen = 0#64 := rfl
@[simp] theorem hostReset_table : (hostReset s).table = List.replicate s.chainMax Layer.unwritten := rfl
@[simp] theorem hostReset_script : (hostReset s).script = s.script := rfl
@[simp] theorem hostReset_replies : (hostReset s).replies = s.replies := rfl

@[simp] theorem hostReset_chainMax : (hostReset s).chainMax = s.chainMax := by
  simp [State.chainMax]

end afterReset

end Sys2Proof.Machine
end

