-- ==== Sys2Proof/Laws/Ops.lean ====
section
/-! SUPPORT. One lemma per shared operation that says once everything it can do; later proofs cite these instead of
unfolding. -/

namespace Sys2Proof.Machine

/-- The latch holds a command back, and only then (60_exceptions.md R184). -/
theorem unlessLatched_cases (f : State → State) (s : State) :
    (s.err = .none ∧ unlessLatched f s = f s) ∨ (s.err ≠ .none ∧ unlessLatched f s = s) := by
  by_cases h : s.err = .none
  · exact .inl ⟨h, by simp [unlessLatched, h]⟩
  · exact .inr ⟨h, by simp [unlessLatched, h]⟩

theorem unlessLatched_of_clear {s : State} (h : s.err = .none) (f : State → State) : unlessLatched f s = f s := by
  simp [unlessLatched, h]

theorem unlessLatched_of_latched {s : State} (h : s.err ≠ .none) (f : State → State) : unlessLatched f s = s := by
  simp [unlessLatched, h]

/-- No even multiplier is found exactly when every layer's is odd (42_affine.md R132). -/
theorem firstEven_eq_none_iff (ls : List Layer) (i : Nat) :
    firstEven ls i = none ↔ ∀ l ∈ ls, isOdd l.a.value = true := by
  induction ls generalizing i with
  | nil => simp [firstEven]
  | cons l rest ih => by_cases h : isOdd l.a.value = true <;> simp [firstEven, h, ih]

/-- The index found is that of a layer with an even multiplier, and every layer before it has an odd one (42_affine.md
R132: the lowest such i). -/
theorem firstEven_eq_some {ls : List Layer} {i j : Nat} (h : firstEven ls i = some j) :
    ∃ k l, j = i + k ∧ ls[k]? = some l ∧ isOdd l.a.value = false ∧
      ∀ k' < k, ∀ l', ls[k']? = some l' → isOdd l'.a.value = true := by
  induction ls generalizing i with
  | nil => simp [firstEven] at h
  | cons l rest ih =>
    by_cases hl : isOdd l.a.value = true
    · rw [firstEven, if_pos hl] at h
      obtain ⟨k, m, rfl, hm, heven, hodd⟩ := ih h
      refine ⟨k + 1, m, by omega, by simpa using hm, heven, ?_⟩
      intro k' hk' l' hl'
      cases k' with
      | zero => simp at hl'; exact hl' ▸ hl
      | succ q => exact hodd q (by omega) l' (by simpa using hl')
    · rw [firstEven, if_neg hl] at h
      refine ⟨0, l, by simpa using h.symm, rfl, by simpa using hl, ?_⟩
      intro k' hk'
      omega

/-- Everything `withValidChain` can do: the two errors, or the command on a chain that passes (42_affine.md R132). -/
theorem withValidChain_cases (v : RingValue) (f : State → State) (s : State) :
    (s.chainMax < s.chlen.toNat ∧ withValidChain v f s = raiseError .chainLength 0#8 v s) ∨
    (s.chlen.toNat ≤ s.chainMax ∧ ∃ i, firstEven (chain s) 0 = some i ∧
      withValidChain v f s = raiseError .invalidLayer (BitVec.ofNat 8 i) v s) ∨
    (s.chlen.toNat ≤ s.chainMax ∧ firstEven (chain s) 0 = none ∧ withValidChain v f s = f s) := by
  by_cases h : s.chainMax < s.chlen.toNat
  · exact .inl ⟨h, by simp [withValidChain, h]⟩
  · right
    cases hf : firstEven (chain s) 0 with
    | some i => exact .inl ⟨by omega, i, rfl, by simp [withValidChain, h, hf]⟩
    | none => exact .inr ⟨by omega, rfl, by simp [withValidChain, h, hf]⟩

/-- Entry `k` of the chain is entry `k` of the table, for `k < nat(CHLEN)`, and there is no other (42_affine.md R130). -/
theorem chain_entry (s : State) (k : Nat) : (chain s)[k]? = if k < s.chlen.toNat then s.table[k]? else none := by
  simp [chain, List.getElem?_take]

/-- Layers applied one list after another (42_affine.md R133). -/
theorem forward_append (ls ms : List Layer) (v : RingValue) : forward (ls ++ ms) v = forward ms (forward ls v) := by
  induction ls generalizing v with
  | nil => rfl
  | cons l rest ih => exact ih _

/-- Layers undone one list after another, the later list first (42_affine.md R135). -/
theorem inverse_append (ls ms : List Layer) (v : RingValue) : inverse (ls ++ ms) v = inverse ls (inverse ms v) := by
  induction ls with
  | nil => rfl
  | cons l rest ih => simp only [List.cons_append, inverse, ih]

/-- What writing one value to CMD can be: a command, or an illegal value (60_exceptions.md R179). -/
theorem execCmd_cases (v : RingValue) (s : State) :
    (∃ i, decode v = .legal i ∧ execCmd v s = exec i s) ∨
    (∃ why, decode v = .illegal why ∧ execCmd v s = .next (illegalCommand v s)) := by
  cases h : decode v with
  | legal i => exact .inl ⟨i, rfl, by simp [execCmd, h]⟩
  | illegal why => exact .inr ⟨why, rfl, by simp [execCmd, h]⟩

/-- HostRead changes nothing but what the host has been told (20_memory.md R55). -/
theorem hostRead_cases (n : RegNum) (s : State) :
    (∃ v, peek n s = some v ∧ hostRead n s = reply (.value v) s) ∨
    (peek n s = none ∧ hostRead n s = reply .accessError s) := by
  cases h : peek n s with
  | some v => exact .inl ⟨v, rfl, by simp [hostRead, h]⟩
  | none => exact .inr ⟨rfl, by simp [hostRead, h]⟩

/-- A HostWrite elsewhere than to CMD stores the value, or changes nothing (20_memory.md R51, R52). -/
theorem hostStore_cases (n : RegNum) (v : RingValue) (s : State) :
    (∃ t, poke n v s = some t ∧ hostStore n v s = reply .ok t) ∨
    (poke n v s = none ∧ hostStore n v s = reply .accessError s) := by
  cases h : poke n v s with
  | some t => exact .inl ⟨t, rfl, by simp [hostStore, h]⟩
  | none => exact .inr ⟨rfl, by simp [hostStore, h]⟩

/-- What storing a value can be: one data register, CHLEN or one table word (20_memory.md R51). -/
theorem poke_cases {n : RegNum} {v : RingValue} {s t : State} (h : poke n v s = some t) :
    (∃ i, regName s.chainMax n = .data i ∧ t = writeData i v s) ∨
    (regName s.chainMax n = .chlen ∧ t = writeChlen v s) ∨
    (∃ i, regName s.chainMax n = .la i ∧ t = writeLA i v s) ∨
    (∃ i, regName s.chainMax n = .lb i ∧ t = writeLB i v s) := by
  cases hn : regName s.chainMax n <;> simp [poke, hn] at h <;> simp [h]

/-- A step: nothing to do, a HostRead, a HostWrite to CMD, another HostWrite, or a HostReset (20_memory.md R50). -/
theorem step_cases (s : State) :
    (s.script = [] ∧ step s = .next s) ∨
    (∃ n rest, s.script = .read n :: rest ∧ step s = .next (hostRead n { s with script := rest })) ∨
    (∃ v rest, s.script = .write cmdNumber v :: rest ∧ step s = writeCmd v { s with script := rest }) ∨
    (∃ n v rest, n ≠ cmdNumber ∧ s.script = .write n v :: rest ∧
      step s = .next (hostStore n v { s with script := rest })) ∨
    (∃ rest, s.script = .reset :: rest ∧ step s = .next (hostReset { s with script := rest })) := by
  cases hs : s.script with
  | nil => exact .inl ⟨rfl, by simp [step, nextTransaction, hs]⟩
  | cons t rest =>
    right
    cases t with
    | read n => exact .inl ⟨n, rest, rfl, by simp [step, nextTransaction, hs, perform]⟩
    | write n v =>
      by_cases hn : n = cmdNumber
      · subst hn
        exact .inr (.inl ⟨v, rest, rfl, by simp [step, nextTransaction, hs, perform, hostWrite]⟩)
      · exact .inr (.inr (.inl ⟨n, v, rest, hn, rfl, by simp [step, nextTransaction, hs, perform, hostWrite, hn]⟩))
    | reset => exact .inr (.inr (.inr ⟨rest, rfl, by simp [step, nextTransaction, hs, perform]⟩))

end Sys2Proof.Machine
end

