-- ==== Sys2Proof/Laws/PerInstr.lean ====
section
/-! SUPPORT. Per command: its word is its format's match under its format's mask (30_encoding.md R86, R89), whatever its
registers. -/

namespace Sys2Proof.Laws.FormatWord

/-- The mask of a command's format (30_encoding.md R86). -/
def mask : Instr → CmdWord
  | .isqrt _ _ => maskU
  | .modinv _ _ => maskU
  | .afwd _ _ => maskU
  | .ainv _ _ => maskU
  | .decomp _ _ _ => maskS
  | .recon _ _ _ => maskJ
  | .clrerr => maskZ

/-- The column `match` of a command (30_encoding.md R89). -/
def pattern : Instr → CmdWord
  | .isqrt _ _ => 1#32
  | .modinv _ _ => 2#32
  | .afwd _ _ => 3#32
  | .ainv _ _ => 4#32
  | .decomp _ _ _ => 5#32
  | .recon _ _ _ => 6#32
  | .clrerr => 7#32

/-- The command's word matches. -/
def Statement (i : Instr) : Prop := encode i &&& mask i = pattern i

/-- Under a mask that keeps no bit of the register fields, only the opcode is left. -/
theorem encodeFields_and {op m : CmdWord} {rd rs1 rs2 rd2 : DReg}
    (h1 : (zextReg rd <<< 8) &&& m = 0#32) (h2 : (zextReg rs1 <<< 12) &&& m = 0#32)
    (h3 : (zextReg rs2 <<< 16) &&& m = 0#32) (h4 : (zextReg rd2 <<< 20) &&& m = 0#32) :
    encodeFields op rd rs1 rs2 rd2 &&& m = op &&& m := by
  have hor : ∀ a b : CmdWord, b &&& m = 0#32 → (a ||| b) &&& m = a &&& m := by
    intro a b hb
    rw [BitVec.and_or_distrib_right, hb]
    simp
  rw [encodeFields, hor _ _ h4, hor _ _ h3, hor _ _ h2, hor _ _ h1]

theorem field_rd (r : DReg) :
    (zextReg r <<< 8) &&& maskU = 0#32 ∧ (zextReg r <<< 8) &&& maskS = 0#32 ∧ (zextReg r <<< 8) &&& maskJ = 0#32 := by
  revert r
  decide

theorem field_rs1 (r : DReg) :
    (zextReg r <<< 12) &&& maskU = 0#32 ∧ (zextReg r <<< 12) &&& maskS = 0#32 ∧
      (zextReg r <<< 12) &&& maskJ = 0#32 := by
  revert r
  decide

theorem field_rs2 (r : DReg) : (zextReg r <<< 16) &&& maskJ = 0#32 := by
  revert r
  decide

theorem field_rd2 (r : DReg) : (zextReg r <<< 20) &&& maskS = 0#32 := by
  revert r
  decide

/-- Any command of format U (30_encoding.md R83). -/
theorem formatU (op : CmdWord) (rd rs1 : DReg) : encodeFields op rd rs1 0 0 &&& maskU = op &&& maskU :=
  encodeFields_and (field_rd rd).1 (field_rs1 rs1).1 (by decide) (by decide)

theorem isqrt (rd rs1 : DReg) : Statement (.isqrt rd rs1) :=
  (formatU _ rd rs1).trans (by decide : 1#32 &&& maskU = 1#32)

theorem modinv (rd rs1 : DReg) : Statement (.modinv rd rs1) :=
  (formatU _ rd rs1).trans (by decide : 2#32 &&& maskU = 2#32)

theorem afwd (rd rs1 : DReg) : Statement (.afwd rd rs1) :=
  (formatU _ rd rs1).trans (by decide : 3#32 &&& maskU = 3#32)

theorem ainv (rd rs1 : DReg) : Statement (.ainv rd rs1) :=
  (formatU _ rd rs1).trans (by decide : 4#32 &&& maskU = 4#32)

theorem decomp (rd rd2 rs1 : DReg) : Statement (.decomp rd rd2 rs1) :=
  (encodeFields_and (field_rd rd).2.1 (field_rs1 rs1).2.1 (by decide) (field_rd2 rd2)).trans
    (by decide : 5#32 &&& maskS = 5#32)

theorem recon (rd rs1 rs2 : DReg) : Statement (.recon rd rs1 rs2) :=
  (encodeFields_and (field_rd rd).2.2 (field_rs1 rs1).2.2 (field_rs2 rs2) (by decide)).trans
    (by decide : 6#32 &&& maskJ = 6#32)

theorem clrerr : Statement .clrerr := by
  unfold Statement
  decide

end Sys2Proof.Laws.FormatWord
end

