-- ==== Sys2Proof/Machine/Script.lean ====
section
/-! DEFINITION. The host-script lines and macros as lists of transactions (30_encoding.md R95, R96). They write a script
down; they add nothing to the machine. -/

namespace Sys2Proof.Machine

/-- The register number of D`i` (20_memory.md R51). -/
def numberOfData (i : DReg) : RegNum := BitVec.ofNat 12 i.val

/-- The register number of LA[i] (10_state.md R34). -/
def numberOfLA (i : Nat) : RegNum := BitVec.ofNat 12 (0x200 + 2 * i)

/-- The register number of LB[i] (10_state.md R34). -/
def numberOfLB (i : Nat) : RegNum := BitVec.ofNat 12 (0x201 + 2 * i)

/-- `CMDW <value>` (30_encoding.md R95). -/
def lineCmdw (v : RingValue) : List Transaction := [.write cmdNumber v]

/-- `CMD <command>` (30_encoding.md R95). -/
def lineCmd (i : Instr) : List Transaction := lineCmdw (cmdValue i)

/-- `LAYER i, a, b` (30_encoding.md R96). -/
def macroLayer (i : Nat) (a b : RingValue) : List Transaction :=
  [.write (numberOfLA i) a, .write (numberOfLB i) b]

/-- `LAYER` for each pair, from index `i` on. -/
def macroLayersFrom : Nat → List (RingValue × RingValue) → List Transaction
  | _, [] => []
  | i, (a, b) :: rest => macroLayer i a b ++ macroLayersFrom (i + 1) rest

/-- `CHAIN (a0,b0), ..., (a(n-1),b(n-1))` (30_encoding.md R96). -/
def macroChain (layers : List (RingValue × RingValue)) : List Transaction :=
  macroLayersFrom 0 layers ++ [.write 0x013#12 (BitVec.ofNat 64 layers.length)]

end Sys2Proof.Machine
end

