-- ==== Sys2Proof/Tests/Slice0.lean ====
section
/-! SUPPORT. Small tests. Expected values are those of spec/95_test_vectors.md and of the examples in the command rules, never
the model's own answers; and for every obligation with hypotheses a state and operands that meet them all. -/

namespace Sys2Proof.Tests

open Sys2Proof.Machine Sys2Proof.Claims

/-! ## Well-formedness: one ill-formed term for the one check -/

theorem test_wf_refuses_decomp_same_destination : (Instr.decomp 1 1 0).wf = false := by decide

theorem test_wf_accepts_decomp_two_destinations : (Instr.decomp 1 2 0).wf = true := by decide

/-! ## Decoding: words written out from the tables of 30_encoding.md, fields high to low -/

/-- 0 rd2 0 rs2 0 rs1 0 rd opcode: `ISQRT d5, d6`. -/
theorem test_decode_isqrt : decodeWord 0b00000000000000000110010100000001#32 = .legal (.isqrt 5 6) := by decide

theorem test_decode_modinv : decodeWord 0b00000000000000000001001000000010#32 = .legal (.modinv 2 1) := by decide

theorem test_decode_afwd : decodeWord 0b00000000000000000001001100000011#32 = .legal (.afwd 3 1) := by decide

theorem test_decode_ainv : decodeWord 0b00000000000000000011010100000100#32 = .legal (.ainv 5 3) := by decide

theorem test_decode_decomp : decodeWord 0b00000000001000000000000100000101#32 = .legal (.decomp 1 2 0) := by decide

theorem test_decode_recon : decodeWord 0b00000000000001100101011100000110#32 = .legal (.recon 7 5 6) := by decide

theorem test_decode_clrerr : decodeWord 0b00000000000000000000000000000111#32 = .legal .clrerr := by decide

/-- 95_test_vectors.md 2.5: an unused register field, reserved bits 11, 19, 24, and CLRERR with a field set. -/
theorem test_decode_refuses_unused_bits :
    decode 0x10101#64 = .illegal .reservedBits ∧ decode 0x901#64 = .illegal .reservedBits ∧
    decode 0x80101#64 = .illegal .reservedBits ∧ decode 0x1000001#64 = .illegal .reservedBits ∧
    decode 0x107#64 = .illegal .reservedBits ∧ decode 0x110105#64 = .illegal .reservedBits ∧
    decode 0x100006#64 = .illegal .reservedBits := by decide

theorem test_decode_refuses_the_rest :
    decode 0#64 = .illegal .reservedOpcode ∧ decode 0x8#64 = .illegal .reservedOpcode ∧
    decode 0xFF#64 = .illegal .reservedOpcode ∧ decode 0x100105#64 = .illegal .sameDestination ∧
    decode 0x8000000000000007#64 = .illegal .highHalf := by decide

theorem test_decode_table_word :
    decodeTableWord 32 0x00065706 = some (.recon 7 5 6) ∧ decodeTableWord 32 0 = none := by decide

theorem test_encode_decomp : encode (.decomp 1 2 0) = 0x00200105#32 := by decide

theorem test_assembly : (Instr.decomp 1 2 0).assembly = "DECOMP d1, d2, d0" := by decide

/-! ## A small state: D0 = `a`, D1 = `b` written, a table of 16 entries with the layers given, CHLEN as given -/

/-- The layers as a written table of 16 entries. -/
def tableOf (layers : List (RingValue × RingValue)) : List Layer :=
  layers.map (fun l => ⟨⟨l.1, true⟩, ⟨l.2, true⟩⟩) ++ List.replicate (16 - layers.length) Layer.unwritten

/-- A clear state with nothing to do. -/
def small (a b : RingValue) (layers : List (RingValue × RingValue)) (chlen : RingValue) : State :=
  { writeData 1 b (writeData 0 a State.reset) with table := tableOf layers, chlen := chlen }

/-- The same with an error latched: 95_test_vectors.md 3.3, NotInvertible at word 3502. -/
def latchedState : State := { small 9#64 0#64 [] 0#64 with err := .notInvertible, ecmd := 0x3502#64 }

/-- A state that has the transactions given to do. -/
def doing (ts : List Transaction) (s : State) : State := { s with script := ts }

/-- Register `r` after a command, if there is a next state. -/
def dataAfter (r : DReg) : Host.Outcome State Fault Refusal → Option RingValue
  | .next t => some (readData r t)
  | .fault _ => none
  | .refused _ => none

/-- STATUS and ECMD after a command or a step. -/
def latchAfter : Host.Outcome State Fault Refusal → Option (RingValue × RingValue)
  | .next t => some (statusValue t, t.ecmd)
  | .fault _ => none
  | .refused _ => none

/-- The newest result returned to the host. -/
def replyAfter : Host.Outcome State Fault Refusal → Option Reply
  | .next t => t.replies.head?
  | .fault _ => none
  | .refused _ => none

/-! ## The commands -/

/-- 40_isqrt.md R110: the document's A, and 2^64 − 1. -/
theorem test_isqrt_document : dataAfter 1 (exec (.isqrt 1 0) (small 0x476F6F6420646179#64 0#64 [] 0#64)) =
    some 0x873B25AA#64 := by decide +kernel

theorem test_isqrt_top : dataAfter 0 (exec (.isqrt 0 0) (small 0xFFFFFFFFFFFFFFFF#64 0#64 [] 0#64)) =
    some 0xFFFFFFFF#64 := by decide +kernel

/-- 41_modinv.md R120: 3, and the even value 2 with D1 left alone. -/
theorem test_modinv_three : dataAfter 1 (exec (.modinv 1 0) (small 3#64 0xDEAD#64 [] 0#64)) =
    some 0xAAAAAAAAAAAAAAAB#64 := by decide

theorem test_modinv_even : latchAfter (exec (.modinv 1 0) (small 2#64 0xDEAD#64 [] 0#64)) = some (2#64, 0x102#64) ∧
    dataAfter 1 (exec (.modinv 1 0) (small 2#64 0xDEAD#64 [] 0#64)) = some 0xDEAD#64 := by decide

/-- 42_affine.md R133: 10 through [(3, 5), (5, 7)]; 95_test_vectors.md 1.3: an even multiplier at index 1. -/
theorem test_afwd_two_layers : dataAfter 1 (exec (.afwd 1 0) (small 10#64 0#64 [(3, 5), (5, 7)] 2#64)) =
    some 182#64 := by decide

theorem test_afwd_even_layer :
    latchAfter (exec (.afwd 1 0) (small 10#64 0x1111#64 [(3, 5), (6, 7), (4, 1)] 3#64)) = some (0x101#64, 0x103#64) ∧
    dataAfter 1 (exec (.afwd 1 0) (small 10#64 0x1111#64 [(3, 5), (6, 7), (4, 1)] 3#64)) = some 0x1111#64 := by decide

/-- 95_test_vectors.md 2.3: the inverse of 10 through [(3, 5), (5, 7)]; CHLEN = 17 is too long. -/
theorem test_ainv_two_layers : dataAfter 1 (exec (.ainv 1 0) (small 10#64 0#64 [(3, 5), (5, 7)] 2#64)) =
    some 0x7777777777777776#64 := by decide

theorem test_ainv_too_long : latchAfter (exec (.ainv 1 0) (small 7#64 0xDEAD#64 [] 17#64)) =
    some (4#64, 0x104#64) := by decide

/-- 95_test_vectors.md 2.1: a destination that is the source, either way round. -/
theorem test_decomp_root_over_source : dataAfter 0 (exec (.decomp 0 1 0) (small 0x19#64 9#64 [] 0#64)) = some 5#64 ∧
    dataAfter 1 (exec (.decomp 0 1 0) (small 0x19#64 9#64 [] 0#64)) = some 0#64 := by decide +kernel

theorem test_decomp_remainder_over_source : dataAfter 1 (exec (.decomp 1 0 0) (small 0x1A#64 9#64 [] 0#64)) = some 5#64 ∧
    dataAfter 0 (exec (.decomp 1 0 0) (small 0x1A#64 9#64 [] 0#64)) = some 1#64 := by decide +kernel

/-- 43_geometric.md R152: the sum that wraps to 0, and the document's pair. -/
theorem test_recon_wraps : dataAfter 2 (exec (.recon 2 0 1) (small 0xFFFFFFFF#64 0x1FFFFFFFF#64 [] 0#64)) =
    some 0#64 := by decide

theorem test_recon_document : dataAfter 2 (exec (.recon 2 0 1) (small 0x873B25AA#64 0x727DCC95#64 [] 0#64)) =
    some 0x476F6F6420646179#64 := by decide

/-- 44_system.md R160. -/
theorem test_clrerr_clears : latchAfter (exec .clrerr latchedState) = some (0#64, 0#64) := by decide

/-- The command runs as the first one after reset (log 5). -/
theorem test_first_command : replyAfter (step (State.reset.withFetchWord 32 0x00001202)) = some .ok := by decide

/-! ## The host's registers: 95_test_vectors.md 2.6 -/

theorem test_last_table_word :
    replyAfter (step (doing [.read 0x21F#12] (writeLB 15 9#64 State.reset))) = some (.value 9#64) := by decide

theorem test_past_the_table :
    replyAfter (step (doing [.write 0x220#12 1#64] State.reset)) = some .accessError := by decide

theorem test_status_is_read_only : replyAfter (step (doing [.write 0x011#12 0#64] latchedState)) = some .accessError ∧
    latchAfter (step (doing [.write 0x011#12 0#64] latchedState)) = some (2#64, 0x3502#64) := by decide

theorem test_chain_macro_script : macroChain [(3, 5)] =
    [.write 0x200#12 3#64, .write 0x201#12 5#64, .write 0x013#12 1#64] := by decide

/-- 20_memory.md R61: "Good day". -/
theorem test_pack_good_day : pack [0x47, 0x6F, 0x6F, 0x64, 0x20, 0x64, 0x61, 0x79] = some 0x476F6F6420646179#64 ∧
    pack [0x47] = none := by decide

/-! ## Every obligation with hypotheses has a state that meets them -/

/-- D0 = 9, D1 = 4, the chain [(3, 5), (5, 7)]. -/
def passing : State := small 9#64 4#64 [(3, 5), (5, 7)] 2#64

theorem passing_chain : ChainPasses passing := by
  refine ⟨by decide, ?_⟩
  intro k hk
  have : k = 0 ∨ k = 1 := by
    have : k < 2 := hk
    omega
  rcases this with rfl | rfl <;> exact (by unfold OddValue; decide)

theorem witness_IsqrtIsTheUniqueFloorRoot :
    2 ^ 64 - 1 < 2 ^ 64 ∧ (2 ^ 32 - 1) * (2 ^ 32 - 1) ≤ 2 ^ 64 - 1 ∧ 2 ^ 64 - 1 < (2 ^ 32 - 1 + 1) * (2 ^ 32 - 1 + 1) := by
  decide

theorem witness_Inv64IsTheUniqueInverse :
    OddValue 3#64 ∧ mul64 3#64 0xAAAAAAAAAAAAAAAB#64 = 1#64 ∧ ¬ OddValue 2#64 :=
  ⟨(by unfold OddValue; decide), by decide, (by unfold OddValue; decide)⟩

theorem witness_InverseLawsOfOddValues :
    OddValue 3#64 ∧ OddValue 5#64 ∧ Clear (small 3#64 0#64 [] 0#64) ∧ Clear (small 3#64 1#64 [] 0#64) ∧
    OddValue (readData 0 (small 3#64 0#64 [] 0#64)) ∧
    readData 0 (small 3#64 0#64 [] 0#64) = readData 0 (small 3#64 1#64 [] 0#64) :=
  ⟨(by unfold OddValue; decide), (by unfold OddValue; decide), rfl, rfl, (by unfold OddValue; decide), by decide⟩

theorem witness_FiveNewtonUpdatesSuffice :
    3 ≤ 32 ∧ (mul64 3#64 3#64).toNat % 2 ^ 3 = 1 % 2 ^ 3 ∧ OddValue 3#64 ∧ 5 ≤ 5 :=
  ⟨by decide, by decide, (by unfold OddValue; decide), by decide⟩

theorem witness_latched_clause : Latched latchedState := (by decide : _ ≠ _)

theorem witness_clear_clause : Clear passing ∧ (0 : DReg) ≠ 1 := ⟨rfl, by decide⟩

theorem witness_ModinvWritesInverseOrRaises :
    Clear passing ∧ OddValue (readData 0 passing) ∧ ¬ OddValue (readData 1 passing) :=
  ⟨rfl, (by unfold OddValue; decide), (by unfold OddValue; decide)⟩

theorem witness_chain_passes : Clear passing ∧ ChainPasses passing := ⟨rfl, passing_chain⟩

theorem witness_chain_too_long : Clear (small 0#64 0#64 [] 17#64) ∧
    (small 0#64 0#64 [] 17#64).chainMax < (small 0#64 0#64 [] 17#64).chlen.toNat := ⟨rfl, by decide⟩

/-- The even multiplier is the last layer of the chain. -/
theorem witness_chain_even_layer :
    Clear (small 0#64 0#64 [(3, 5), (4, 7)] 2#64) ∧
    (small 0#64 0#64 [(3, 5), (4, 7)] 2#64).chlen.toNat ≤ (small 0#64 0#64 [(3, 5), (4, 7)] 2#64).chainMax ∧
    1 < (small 0#64 0#64 [(3, 5), (4, 7)] 2#64).chlen.toNat ∧
    ¬ OddValue (layerA (small 0#64 0#64 [(3, 5), (4, 7)] 2#64) 1) ∧
    (∀ j < 1, OddValue (layerA (small 0#64 0#64 [(3, 5), (4, 7)] 2#64) j)) ∧
    (small 0#64 0#64 [(3, 5), (4, 7)] 2#64).chainMax ≤ 256 := by
  refine ⟨rfl, by decide, by decide, (by unfold OddValue; decide), ?_, by decide⟩
  intro j hj
  obtain rfl : j = 0 := by omega
  exact (by unfold OddValue; decide)

theorem witness_DecompWritesRootAndRemainder : (1 : DReg) ≠ 2 ∧ (1 : DReg) = 1 ∧ Clear passing :=
  ⟨by decide, rfl, rfl⟩

theorem witness_ClrerrClearsTheLatch : Clear passing ∧ NothingRecordedWhenClear passing ∧ Latched latchedState ∧
    (0x107#64).extractLsb' 0 8 = 7#8 ∧ (0x107#64) ≠ 7#64 ∧ decode 7#64 = .legal .clrerr ∧ (0x101#64) ≠ 7#64 :=
  ⟨rfl, fun _ => ⟨rfl, rfl⟩, witness_latched_clause, by decide, by decide, by decide, by decide⟩

theorem witness_AffineRoundTrip : Clear passing ∧ ChainPasses passing ∧ OddValue 3#64 :=
  ⟨rfl, passing_chain, (by unfold OddValue; decide)⟩

theorem witness_EmptyChainCopies : Clear (small 9#64 4#64 [(2, 0)] 0#64) ∧ (small 9#64 4#64 [(2, 0)] 0#64).chlen = 0#64 :=
  ⟨rfl, rfl⟩

theorem witness_LayerOrderMatters_first :
    Clear (small 10#64 0#64 [(3, 5), (5, 7)] 2#64) ∧ (small 10#64 0#64 [(3, 5), (5, 7)] 2#64).chlen = 2#64 ∧
    2 ≤ (small 10#64 0#64 [(3, 5), (5, 7)] 2#64).chainMax ∧ readData 0 (small 10#64 0#64 [(3, 5), (5, 7)] 2#64) = 10#64 ∧
    layerA (small 10#64 0#64 [(3, 5), (5, 7)] 2#64) 0 = 3#64 ∧ layerB (small 10#64 0#64 [(3, 5), (5, 7)] 2#64) 0 = 5#64 ∧
    layerA (small 10#64 0#64 [(3, 5), (5, 7)] 2#64) 1 = 5#64 ∧
    layerB (small 10#64 0#64 [(3, 5), (5, 7)] 2#64) 1 = 7#64 := ⟨rfl, by decide⟩

theorem witness_LayerOrderMatters_second :
    Clear (small 10#64 0#64 [(5, 7), (3, 5)] 2#64) ∧ (small 10#64 0#64 [(5, 7), (3, 5)] 2#64).chlen = 2#64 ∧
    2 ≤ (small 10#64 0#64 [(5, 7), (3, 5)] 2#64).chainMax ∧ readData 0 (small 10#64 0#64 [(5, 7), (3, 5)] 2#64) = 10#64 ∧
    layerA (small 10#64 0#64 [(5, 7), (3, 5)] 2#64) 0 = 5#64 ∧ layerB (small 10#64 0#64 [(5, 7), (3, 5)] 2#64) 0 = 7#64 ∧
    layerA (small 10#64 0#64 [(5, 7), (3, 5)] 2#64) 1 = 3#64 ∧
    layerB (small 10#64 0#64 [(5, 7), (3, 5)] 2#64) 1 = 5#64 := ⟨rfl, by decide⟩

/-- The largest valid remainder, and both non-injective pairs. -/
theorem witness_DecompAfterReconReturnsValidPairsOnly :
    (readData 0 (small 0x100000000#64 5#64 [] 0#64) = 0x100000000#64 ∧ readData 1 (small 0x100000000#64 5#64 [] 0#64) = 5#64) ∧
    (readData 0 (small 2#64 1#64 [] 0#64) = 2#64 ∧ readData 1 (small 2#64 1#64 [] 0#64) = 1#64) ∧
    Clear (small 2#64 1#64 [] 0#64) ∧ (2 : DReg) ≠ 3 ∧ Clear (small 0xFFFFFFFF#64 0x1FFFFFFFE#64 [] 0#64) ∧
    (readData 1 (small 0xFFFFFFFF#64 0x1FFFFFFFE#64 [] 0#64)).toNat ≤
      2 * (readData 0 (small 0xFFFFFFFF#64 0x1FFFFFFFE#64 [] 0#64)).toNat :=
  ⟨by decide, by decide, rfl, by decide, rfl, by decide⟩

/-- The frames and the statements about a next state: each kind of command answers one from these states. -/
theorem witness_frames :
    (dataAfter 0 (exec (.isqrt 1 0) passing)).isSome ∧ (dataAfter 0 (exec (.recon 2 0 1) passing)).isSome ∧
    (dataAfter 0 (exec (.modinv 1 0) passing)).isSome ∧ (dataAfter 0 (exec (.afwd 1 0) passing)).isSome ∧
    (dataAfter 0 (exec (.ainv 1 0) passing)).isSome ∧ (dataAfter 0 (exec (.decomp 1 2 0) passing)).isSome ∧
    (dataAfter 0 (exec .clrerr passing)).isSome := by decide

/-- MODINV of the even D1: the state after has an error latched (statements on a raised error). -/
theorem witness_error_raised : ∃ t, Clear passing ∧ NothingRecordedWhenClear passing ∧
    execCmd 0x1002#64 passing = .next t ∧ Latched t :=
  ⟨raised .notInvertible 0#8 (.modinv 0 1) passing, rfl, fun _ => ⟨rfl, rfl⟩, by rfl, (by decide : _ ≠ _)⟩

theorem witness_LatchedCommandsDoNothing :
    Latched (doing [.write 0x010#12 0x107#64] latchedState) ∧ (0x107#64) ≠ 7#64 ∧
    (doing [.write 0x010#12 0x107#64] latchedState).script = .write 0x010#12 0x107#64 :: [] :=
  ⟨witness_latched_clause, by decide, rfl⟩

theorem witness_OnlyClrerrOrResetLeavesTheLatch :
    (∃ t, Latched (doing [.write 0x010#12 7#64] latchedState) ∧ step (doing [.write 0x010#12 7#64] latchedState) = .next t ∧
      Clear t) ∧
    (doing [.reset] latchedState).script = .reset :: [] ∧
    (doing [.write 0x010#12 7#64] latchedState).script = .write 0x010#12 7#64 :: [] :=
  ⟨⟨reply .ok (clearError latchedState), witness_latched_clause, by rfl, rfl⟩, rfl, rfl⟩

theorem witness_FirstErrorIsKept : ∃ t, Latched (doing [.write 0x010#12 0#64] latchedState) ∧
    step (doing [.write 0x010#12 0#64] latchedState) = .next t ∧ Latched t :=
  ⟨reply .ok latchedState, witness_latched_clause, by rfl, witness_latched_clause⟩

theorem witness_IllegalCommandIsRecorded : Clear (doing [.write 0x010#12 0#64] passing) ∧
    (doing [.write 0x010#12 0#64] passing).script = .write 0x010#12 0#64 :: [] ∧ IllegalByRule 0#64 :=
  ⟨rfl, rfl, .inr (.inl (by decide))⟩

/-- A legal value and an illegal one, and each state of the latch. -/
theorem witness_IllegalExactlyByTheFourCases :
    IllegalByRule 0x100105#64 ∧ ¬ IllegalByRule 0x200105#64 ∧ Clear passing ∧ Latched latchedState :=
  ⟨.inr (.inr (.inr (.inr (.inl (by decide))))), by unfold IllegalByRule; decide, rfl, witness_latched_clause⟩

theorem witness_DecodeOfEncodeIsTheCommand : (Instr.decomp 1 2 0).wf = true := by decide

theorem witness_LegalValueIsTheEncodingOfItsCommand : decode 0x77777#64 = .illegal .reservedOpcode ∧
    decode 0x00065706#64 = .legal (.recon 7 5 6) := by decide

theorem witness_StepRunsTheDecodedCommand :
    (doing [.write 0x010#12 0x101#64] passing).script = .write 0x010#12 0x101#64 :: [] ∧
    decode 0x101#64 = .legal (.isqrt 1 0) ∧ passing.script = [] := ⟨rfl, by decide, rfl⟩

theorem witness_HostReadFollowsTheMap :
    (doing [.read 0x21F#12] passing).script = .read 0x21F#12 :: [] := rfl

/-- The boundary register numbers of each clause: D7, CHLEN, LA[0], LB[15]. -/
theorem witness_stores :
    (doing [.write 0x007#12 1#64] passing).script = .write 0x007#12 1#64 :: [] ∧ Stores passing 0x007#12 ∧
    Stores passing 0x013#12 ∧ Stores passing 0x200#12 ∧ Stores passing 0x21F#12 ∧
    passing.table[15]? = some Layer.unwritten :=
  ⟨rfl, .inl (by decide), .inr (.inl (by decide)), .inr (.inr (by decide)), .inr (.inr (by decide)), by decide⟩

theorem witness_HostWriteTwiceIsOnce :
    (doing [.write 0x200#12 1#64, .write 0x200#12 1#64] passing).script =
      .write 0x200#12 1#64 :: .write 0x200#12 1#64 :: [] ∧ Stores passing 0x200#12 := ⟨rfl, .inr (.inr (by decide))⟩

/-- The boundary register numbers of each clause, and the read of CMD. -/
theorem witness_AccessErrorChangesNothing :
    Unimplemented passing 0x008#12 ∧ Unimplemented passing 0x00F#12 ∧ Unimplemented passing 0x014#12 ∧
    Unimplemented passing 0x1FF#12 ∧ Unimplemented passing 0x220#12 ∧ Unimplemented passing 0xFFF#12 ∧
    (doing [.read 0x010#12] passing).script = .read 0x010#12 :: [] ∧ (0x010#12).toNat = 0x010 ∧
    (doing [.write 0x012#12 0#64] passing).script = .write 0x012#12 0#64 :: [] ∧ (0x011#12).toNat = 0x011 ∧
    (0x012#12).toNat = 0x012 :=
  ⟨.inl (by decide), .inl (by decide), .inr (.inl (by decide)), .inr (.inl (by decide)), .inr (.inr (by decide)),
    .inr (.inr (by decide)), rfl, by decide, rfl, by decide, by decide⟩

theorem witness_StatusFields : peek 0x011#12 latchedState = some 2#64 := by decide

theorem witness_HostResetLeavesTheResetTable : (doing [.reset] passing).script = .reset :: [] := rfl

theorem witness_ResetMeetsTheLatchInvariant : 1 ≤ 256 ∧ 256 ≤ 256 := by decide

theorem witness_EveryStepKeepsTheLatchInvariant :
    ∃ t, LatchInv passing ∧ step (doing [.read 0x011#12] passing) = .next t ∧ LatchInv (doing [.read 0x011#12] passing) :=
  ⟨reply (.value 0#64) passing, ⟨⟨by decide, by decide⟩, rfl, rfl⟩, by rfl, ⟨⟨by decide, by decide⟩, rfl, rfl⟩⟩

theorem latched_state_meets_the_invariant : LatchInv latchedState :=
  ⟨⟨by decide, by decide⟩, rfl, 5, 3, by decide⟩

/-- `state` with another value in the unwritten D7. -/
def otherUnwritten (state : State) : State := { state with x := state.x.set 7 ⟨1#64, false⟩ }

theorem same_slot_refl (p : Slot) : SameSlot p p := ⟨rfl, fun _ => rfl⟩

theorem witness_UnwrittenValuesNeverReachAResult :
    SameWritten (doing [.write 0x010#12 0x101#64] passing) (otherUnwritten (doing [.write 0x010#12 0x101#64] passing)) ∧
    readsWritten (doing [.write 0x010#12 0x101#64] passing) = true ∧
    (∃ s', step (doing [.write 0x010#12 0x101#64] passing) = .next s') ∧
    ∃ t', step (otherUnwritten (doing [.write 0x010#12 0x101#64] passing)) = .next t' := by
  refine ⟨⟨?_, ?_, rfl, rfl, rfl, rfl, rfl, rfl⟩, by decide, ⟨_, rfl⟩, ⟨_, rfl⟩⟩
  · unfold SameSlot
    decide
  · exact List.forall₂_same.mpr fun l _ => ⟨same_slot_refl _, same_slot_refl _⟩

theorem witness_PackAndUnpackAreInverse :
    [0x47, 0x6F, 0x6F, 0x64, 0x20, 0x64, 0x61, (0x79 : Byte)].length = 8 ∧ [(0x47 : Byte)].length ≠ 8 ∧ 7 < 8 := by decide

end Sys2Proof.Tests
end

section
/-! PROOF. The arithmetic of 00_scope.md: the model's `isqrt` is Mathlib's `Nat.sqrt` below 2^64 (R14), and the residual
`1 - a * inv` of the model's Newton iteration is squared by every update, which gives the inverse of an odd value (R15). -/

namespace Sys2Proof.Proofs

open Sys2Proof.Machine Sys2Proof.Claims

/-! ### The floor square root -/

/-- With `r` the digits found so far, the root lies in `[r, r + 2^k)`, and the `k` digits to come find it. -/
theorem isqrtFrom_eq_sqrt (k : Nat) {n r : Nat} (hlow : r * r ≤ n) (hhigh : n < (r + 2 ^ k) * (r + 2 ^ k)) :
    isqrtFrom k n r = Nat.sqrt n := by
  induction k generalizing r with
  | zero => exact Nat.eq_sqrt.mpr ⟨hlow, hhigh⟩
  | succ k ih =>
    have hhalves : r + 2 ^ (k + 1) = r + 2 ^ k + 2 ^ k := by omega
    rw [hhalves] at hhigh
    rw [isqrtFrom]
    split
    case isTrue hstays => exact ih hstays hhigh
    case isFalse hexceeds => exact ih hlow (Nat.lt_of_not_le hexceeds)

/-- Below 2^64 the 32 digits of the model's root are all there are. -/
theorem isqrt_eq_sqrt {n : Nat} (hn : n < 2 ^ 64) : isqrt n = Nat.sqrt n :=
  isqrtFrom_eq_sqrt 32 (Nat.zero_le n) (by simpa using hn)

/-- Settles O1: `isqrt` is `Nat.sqrt`, which has the two inequalities and is the only natural with both. -/
theorem isqrtIsTheUniqueFloorRoot : Obligations.IsqrtIsTheUniqueFloorRoot := by
  intro n hn
  rw [isqrt_eq_sqrt hn]
  have hbound : Nat.sqrt n < 2 ^ 32 := Nat.sqrt_lt.mpr (by simpa using hn)
  exact ⟨Nat.sqrt_le n, Nat.lt_succ_sqrt n, Nat.le_pred_of_lt hbound,
    fun r hlow hhigh => Nat.eq_sqrt.mpr ⟨hlow, hhigh⟩⟩

/-! ### The inverse of an odd value -/

@[simp] theorem mul64_eq_mul (a b : RingValue) : mul64 a b = a * b := rfl

@[simp] theorem sub64_eq_sub (a b : RingValue) : sub64 a b = a - b := rfl

/-- Every update of the Newton iteration squares the residual `1 - a * inv` (41_modinv.md R123). -/
theorem newtonFrom_residual (a : RingValue) (k : Nat) (inv : RingValue) :
    1 - a * newtonFrom a k inv = (1 - a * inv) ^ 2 ^ k := by
  induction k generalizing inv with
  | zero => simp [newtonFrom]
  | succ k ih =>
    have hsquare : 1 - a * mul64 inv (sub64 2 (mul64 a inv)) = (1 - a * inv) ^ 2 := by
      rw [mul64_eq_mul, mul64_eq_mul, sub64_eq_sub]
      ring
    calc 1 - a * newtonFrom a (k + 1) inv
        = (1 - a * mul64 inv (sub64 2 (mul64 a inv))) ^ 2 ^ k := ih _
      _ = (1 - a * inv) ^ 2 ^ (k + 1) := by rw [hsquare, ← pow_mul, ← pow_succ']

theorem odd_of_oddValue {a : RingValue} (ha : OddValue a) : Odd a := by
  refine ⟨BitVec.ofNat 64 (a.toNat / 2), BitVec.eq_of_toNat_eq ?_⟩
  have hhalf : a.toNat = 2 * (a.toNat / 2) + 1 := by
    unfold OddValue at ha
    omega
  simpa [← hhalf] using (Nat.mod_eq_of_lt a.isLt).symm

/-- An even value is nilpotent: its 64th power has the factor 2^64. -/
theorem pow_64_eq_zero_of_even {e : RingValue} (he : Even e) : e ^ 64 = 0 := by
  obtain ⟨t, rfl⟩ := he.two_dvd
  have htop : (2 : RingValue) ^ 64 = 0 := BitVec.eq_of_toNat_eq (by simp)
  rw [mul_pow, htop, zero_mul]

/-- Six updates from `a` itself raise an even residual to the 64th power. -/
theorem mul_inv64 {a : RingValue} (ha : OddValue a) : a * inv64 a = 1 := by
  have hodd : Odd a := odd_of_oddValue ha
  have heven : Even (1 - a * a) := odd_one.sub_odd (hodd.mul hodd)
  have hresidual : 1 - a * inv64 a = (1 - a * a) ^ 64 := newtonFrom_residual a 6 a
  rw [pow_64_eq_zero_of_even heven] at hresidual
  exact (sub_eq_zero.mp hresidual).symm

/-- The low bit of a product is the product of the low bits, so a factor of 1 is odd. -/
theorem oddValue_of_mul_eq_one {a b : RingValue} (h : a * b = 1) : OddValue a := by
  have hone : a.toNat * b.toNat % 2 ^ 64 = 1 := by simpa using congrArg BitVec.toNat h
  have hparity : a.toNat * b.toNat % 2 = 1 := by omega
  exact Nat.odd_iff.mp (Nat.odd_mul.mp (Nat.odd_iff.mpr hparity)).1

/-- Settles O2: `mul_inv64` gives the inverse, a commutative ring has at most one, and an even value has none because a
factor of 1 is odd. -/
theorem inv64IsTheUniqueInverse : Obligations.Inv64IsTheUniqueInverse := by
  intro a
  simp only [mul64_eq_mul]
  constructor
  · intro ha
    exact ⟨mul_inv64 ha, fun b hb => inv_unique hb (mul_inv64 ha)⟩
  · intro heven b hb
    exact heven (oddValue_of_mul_eq_one hb)

end Sys2Proof.Proofs
end

section
/-! PROOF. What a command can do, said once: `CommandEffect` lists its outcomes and `exec_effect` shows there is no other.
The frames of 10_state.md R22 and R36, and the kept latch invariant of R41, are read off that list. -/

namespace Sys2Proof.Proofs

open Sys2Proof.Machine Sys2Proof.Claims

/-! ### The outcomes of a command -/

/-- The registers a command may write (30_encoding.md R89). -/
def destinations : Instr → List DReg
  | .isqrt rd _ => [rd]
  | .modinv rd _ => [rd]
  | .afwd rd _ => [rd]
  | .ainv rd _ => [rd]
  | .decomp rd rd2 _ => [rd, rd2]
  | .recon rd _ _ => [rd]
  | .clrerr => []

/-- The two errors of validation, each with its ERRIDX (42_affine.md R132). -/
inductive ChainError (s : State) : ErrCode → BitVec 8 → Prop where
  | length (htoo : s.chainMax < s.chlen.toNat) : ChainError s .chainLength 0#8
  | layer (k : Nat) (hfits : s.chlen.toNat ≤ s.chainMax) (hfirst : firstEven (chain s) 0 = some k) :
      ChainError s .invalidLayer (BitVec.ofNat 8 k)

/-- The errors a command can raise, each with its ERRIDX (60_exceptions.md R171 to R174). -/
inductive Raises (s : State) : Instr → ErrCode → BitVec 8 → Prop where
  | modinv (rd rs1 : DReg) (heven : isOdd (readData rs1 s) = false) : Raises s (.modinv rd rs1) .notInvertible 0#8
  | afwd (rd rs1 : DReg) {e : ErrCode} {idx : BitVec 8} (h : ChainError s e idx) : Raises s (.afwd rd rs1) e idx
  | ainv (rd rs1 : DReg) {e : ErrCode} {idx : BitVec 8} (h : ChainError s e idx) : Raises s (.ainv rd rs1) e idx
  | decomp (rd rs1 : DReg) : Raises s (.decomp rd rd rs1) .illegalCommand 0#8

/-- The states a command may lead to: held back by the latch (60_exceptions.md R184), data registers written, an error
raised (R180), or the latch cleared (44_system.md R160). -/
inductive CommandEffect (i : Instr) (s : State) : State → Prop where
  | heldBack (hlatched : Latched s) (hi : i ≠ .clrerr) : CommandEffect i s s
  | wrote (x : Vector Slot 8) (hclear : Clear s) (hwf : i.wf = true) (hx : ∀ r ∉ destinations i, x[r] = s.x[r]) :
      CommandEffect i s { s with x := x }
  | raised {e : ErrCode} {idx : BitVec 8} (hclear : Clear s) (h : Raises s i e idx) :
      CommandEffect i s (raiseError e idx (cmdValue i) s)
  | cleared (hi : i = .clrerr) : CommandEffect i s (clearError s)

theorem unlessLatched_effect {i : Instr} {s : State} {f : State → State} (hi : i ≠ .clrerr)
    (hf : Clear s → CommandEffect i s (f s)) : CommandEffect i s (unlessLatched f s) := by
  obtain ⟨hclear, heq⟩ | ⟨hlatched, heq⟩ := unlessLatched_cases f s
  · rw [heq]
    exact hf hclear
  · rw [heq]
    exact .heldBack hlatched hi

theorem writeData_effect {i : Instr} {s : State} {rd : DReg} (v : RingValue) (hclear : Clear s) (hwf : i.wf = true)
    (hrd : rd ∈ destinations i) : CommandEffect i s (writeData rd v s) :=
  .wrote _ hclear hwf fun _ hr => x_writeData_ne (ne_of_mem_of_not_mem hrd hr).symm v s

theorem withValidChain_effect {i : Instr} {s : State} {f : State → State} (hclear : Clear s)
    (hraises : ∀ {e idx}, ChainError s e idx → Raises s i e idx) (hf : CommandEffect i s (f s)) :
    CommandEffect i s (withValidChain (cmdValue i) f s) := by
  obtain ⟨htoo, heq⟩ | ⟨hfits, k, hfirst, heq⟩ | ⟨-, -, heq⟩ := withValidChain_cases (cmdValue i) f s
  · rw [heq]
    exact .raised hclear (hraises (.length htoo))
  · rw [heq]
    exact .raised hclear (hraises (.layer k hfits hfirst))
  · rw [heq]
    exact hf

theorem modinvCommand_effect (rd rs1 : DReg) {s : State} (hclear : Clear s) :
    CommandEffect (.modinv rd rs1) s (modinvCommand rd rs1 s) := by
  unfold modinvCommand
  split
  case isTrue _ => exact writeData_effect _ hclear rfl (by simp [destinations])
  case isFalse heven => exact .raised hclear (.modinv rd rs1 (by simpa using heven))

theorem decompCommand_effect {rd rd2 : DReg} (rs1 : DReg) {s : State} (hne : rd ≠ rd2) (hclear : Clear s) :
    CommandEffect (.decomp rd rd2 rs1) s (decompCommand rd rd2 rs1 s) := by
  refine .wrote _ hclear (by simp [Instr.wf, hne]) fun r hr => ?_
  obtain ⟨hrd, hrd2⟩ : r ≠ rd ∧ r ≠ rd2 := by simpa [destinations] using hr
  exact (x_writeData_ne hrd2 _ _).trans (x_writeData_ne hrd _ _)

/-- Every command answers a next state, and one of the outcomes listed. -/
theorem exec_effect (i : Instr) (s : State) : ∃ t, exec i s = .next t ∧ CommandEffect i s t := by
  cases i with
  | isqrt rd rs1 =>
    exact ⟨_, rfl, unlessLatched_effect (by simp) fun hclear => writeData_effect _ hclear rfl (by simp [destinations])⟩
  | modinv rd rs1 => exact ⟨_, rfl, unlessLatched_effect (by simp) (modinvCommand_effect rd rs1)⟩
  | afwd rd rs1 =>
    exact ⟨_, rfl, unlessLatched_effect (by simp) fun hclear =>
      withValidChain_effect hclear (.afwd rd rs1) (writeData_effect _ hclear rfl (by simp [destinations]))⟩
  | ainv rd rs1 =>
    exact ⟨_, rfl, unlessLatched_effect (by simp) fun hclear =>
      withValidChain_effect hclear (.ainv rd rs1) (writeData_effect _ hclear rfl (by simp [destinations]))⟩
  | decomp rd rd2 rs1 =>
    refine ⟨_, rfl, ?_⟩
    split
    case isTrue heq =>
      subst heq
      exact unlessLatched_effect (by simp) fun hclear => .raised hclear (.decomp rd rs1)
    case isFalse hne => exact unlessLatched_effect (by simp) (decompCommand_effect rs1 hne)
  | recon rd rs1 rs2 =>
    exact ⟨_, rfl, unlessLatched_effect (by simp) fun hclear => writeData_effect _ hclear rfl (by simp [destinations])⟩
  | clrerr => exact ⟨_, rfl, .cleared rfl⟩

theorem effect_of_exec {i : Instr} {s t : State} (h : exec i s = .next t) : CommandEffect i s t := by
  obtain ⟨u, hu, heffect⟩ := exec_effect i s
  obtain rfl : u = t := by simpa [hu] using h
  exact heffect

/-! ### The frames of the commands -/

/-- CHLEN, the layer table and the host's two lists are the same in both states. -/
structure SameChainAndHost (s t : State) : Prop where
  chlen : t.chlen = s.chlen
  table : t.table = s.table
  script : t.script = s.script
  replies : t.replies = s.replies

theorem CommandEffect.sameChainAndHost {i : Instr} {s t : State} (h : CommandEffect i s t) : SameChainAndHost s t := by
  cases h <;> exact ⟨rfl, rfl, rfl, rfl⟩

theorem CommandEffect.x_of_not_destination {i : Instr} {s t : State} (h : CommandEffect i s t) {r : DReg}
    (hr : r ∉ destinations i) : t.x[r] = s.x[r] := by
  cases h with
  | heldBack => rfl
  | wrote x _ _ hx => exact hx r hr
  | raised => rfl
  | cleared => rfl

/-- But for CLRERR, the latch fields stay as they are, or an error was raised and nothing else happened. -/
theorem CommandEffect.latch_kept_or_raised {i : Instr} {s t : State} (h : CommandEffect i s t) (hi : i ≠ .clrerr) :
    (t.err = s.err ∧ t.erridx = s.erridx ∧ t.ecmd = s.ecmd) ∨
    (Clear s ∧ ∃ e idx, Raises s i e idx ∧ t = raiseError e idx (cmdValue i) s) := by
  cases h with
  | heldBack => exact .inl ⟨rfl, rfl, rfl⟩
  | wrote => exact .inl ⟨rfl, rfl, rfl⟩
  | raised hclear h => exact .inr ⟨hclear, _, _, h, rfl⟩
  | cleared h => exact absurd h hi

theorem Raises.err_ne_none {i : Instr} {s : State} {e : ErrCode} {idx : BitVec 8} (h : Raises s i e idx) :
    e ≠ .none := by
  cases h with
  | modinv => simp
  | afwd _ _ h => cases h <;> simp
  | ainv _ _ h => cases h <;> simp
  | decomp => simp

/-- Settles O21: neither command can raise an error, so the latch is kept. -/
theorem isqrtReconFrame : Obligations.IsqrtReconFrame := by
  intro i rd rs1 rs2 s t hi h
  have heffect := effect_of_exec h
  obtain ⟨hchlen, htable, hscript, hreplies⟩ := heffect.sameChainAndHost
  have hx : ∀ r, r ≠ rd → t.x[r] = s.x[r] := fun r hr =>
    heffect.x_of_not_destination (by obtain rfl | rfl := hi <;> simpa [destinations] using hr)
  have hne : i ≠ .clrerr := by obtain rfl | rfl := hi <;> simp
  obtain ⟨herr, herridx, hecmd⟩ | ⟨-, e, idx, hraises, -⟩ := heffect.latch_kept_or_raised hne
  · exact ⟨hx, herr, herridx, hecmd, hchlen, htable, hscript, hreplies⟩
  · obtain rfl | rfl := hi <;> cases hraises

/-- Settles O22: an error raised is one of the four codes, and leaves every data register alone. -/
theorem modinvAfwdAinvFrame : Obligations.ModinvAfwdAinvFrame := by
  intro i rd rs1 s t hi h
  have heffect := effect_of_exec h
  obtain ⟨hchlen, htable, hscript, hreplies⟩ := heffect.sameChainAndHost
  have hx : ∀ r, r ≠ rd → t.x[r] = s.x[r] := fun r hr =>
    heffect.x_of_not_destination (by obtain rfl | rfl | rfl := hi <;> simpa [destinations] using hr)
  have hne : i ≠ .clrerr := by obtain rfl | rfl | rfl := hi <;> simp
  refine ⟨hx, hchlen, htable, hscript, hreplies, ?_⟩
  obtain hkept | ⟨hclear, e, idx, hraises, rfl⟩ := heffect.latch_kept_or_raised hne
  · exact .inl hkept
  · exact .inr ⟨hclear, hraises.err_ne_none, rfl⟩

/-- Settles O23: DECOMP raises only with equal destinations, and writes only with different ones. -/
theorem decompFrame : Obligations.DecompFrame := by
  intro rd rd2 rs1 s t h
  have heffect := effect_of_exec h
  obtain ⟨hchlen, htable, hscript, hreplies⟩ := heffect.sameChainAndHost
  refine ⟨fun r hrd hrd2 => heffect.x_of_not_destination (by simp [destinations, hrd, hrd2]),
    hchlen, htable, hscript, hreplies, fun hne => ?_, fun heq => ?_⟩
  · obtain hkept | ⟨-, e, idx, hraises, -⟩ := heffect.latch_kept_or_raised (by simp)
    · exact hkept
    · cases hraises
      exact absurd rfl hne
  · cases heffect with
    | heldBack => rfl
    | wrote x _ hwf => simp [Instr.wf, heq] at hwf
    | raised => rfl
    | cleared hi => cases hi

/-! ### The values written to CMD -/

/-- An illegal value is recorded, or held back by the latch (60_exceptions.md R173, R184). -/
theorem illegalCommand_cases (v : RingValue) (s : State) :
    (Clear s ∧ illegalCommand v s = raiseError .illegalCommand 0#8 v s) ∨ (Latched s ∧ illegalCommand v s = s) :=
  unlessLatched_cases _ s

/-- Executing a value has the effect of the command it spells, or is the illegal command. -/
theorem execCmd_effect (v : RingValue) (s : State) :
    ∃ t, execCmd v s = .next t ∧
      ((∃ i, decode v = .legal i ∧ CommandEffect i s t) ∨
        ∃ why, decode v = .illegal why ∧ t = illegalCommand v s) := by
  obtain ⟨i, hdecode, heq⟩ | ⟨why, hdecode, heq⟩ := execCmd_cases v s
  · obtain ⟨t, ht, heffect⟩ := exec_effect i s
    exact ⟨t, heq.trans ht, .inl ⟨i, hdecode, heffect⟩⟩
  · exact ⟨_, heq, .inr ⟨why, hdecode, rfl⟩⟩

/-- Settles O25: neither a command nor an illegal value touches the chain. -/
theorem commandsNeverWriteTheChain : Obligations.CommandsNeverWriteTheChain := by
  intro v s
  obtain ⟨t, ht, ⟨i, -, heffect⟩ | ⟨why, -, rfl⟩⟩ := execCmd_effect v s
  · exact ⟨t, ht, heffect.sameChainAndHost.table, heffect.sameChainAndHost.chlen⟩
  · refine ⟨_, ht, ?_⟩
    obtain ⟨-, heq⟩ | ⟨-, heq⟩ := illegalCommand_cases v s <;> simp [heq]

/-- A CMD write executes the value and returns Ok (60_exceptions.md R183). -/
theorem writeCmd_of_execCmd {v : RingValue} {s t : State} (h : execCmd v s = .next t) :
    writeCmd v s = .next (reply .ok t) := by
  simp [writeCmd, h]

end Sys2Proof.Proofs
end

section
/-! PROOF. The latch invariant of 10_state.md R41: it holds after reset, and every step keeps it. -/

namespace Sys2Proof.Proofs

open Sys2Proof.Machine Sys2Proof.Claims

/-- CHAIN_MAX and the three latch fields, all that the invariant speaks of, are the same in both states. -/
structure SameLatch (s t : State) : Prop where
  chainMax : t.chainMax = s.chainMax
  err : t.err = s.err
  erridx : t.erridx = s.erridx
  ecmd : t.ecmd = s.ecmd

theorem latchInv_of_sameLatch {s t : State} (h : SameLatch s t) (hinv : LatchInv s) : LatchInv t := by
  obtain ⟨hmax, herr, herridx, hecmd⟩ := h
  unfold LatchInv TableSized at *
  rwa [hmax, herr, herridx, hecmd]

theorem latchInv_of_nothing_recorded {s : State} (hsize : TableSized s) (herr : s.err = .none)
    (herridx : s.erridx = 0#8) (hecmd : s.ecmd = 0#64) : LatchInv s := by
  refine ⟨hsize, ?_⟩
  rw [herr]
  exact ⟨herridx, hecmd⟩

/-- An offending index is that of an entry of the table, and narrowing it to ERRIDX does not raise it. -/
theorem invalidLayer_index_lt {s : State} {k : Nat} (h : firstEven (chain s) 0 = some k) :
    (BitVec.ofNat 8 k).toNat < s.chainMax := by
  obtain ⟨j, l, rfl, hl, -, -⟩ := firstEven_eq_some h
  obtain ⟨hj, -⟩ := List.getElem?_eq_some_iff.mp hl
  have hchain : (chain s).length ≤ s.chainMax := by simp [chain, State.chainMax]
  calc (BitVec.ofNat 8 (0 + j)).toNat = (0 + j) % 2 ^ 8 := BitVec.toNat_ofNat _ _
    _ ≤ 0 + j := Nat.mod_le _ _
    _ < s.chainMax := by omega

/-- No value decodes to a DECOMP with equal destinations, its own encoding included (30_encoding.md R90 case 4). -/
theorem decode_decomp_same_destination (rd rs1 : DReg) :
    decode (cmdValue (.decomp rd rd rs1)) = .illegal .sameDestination := by
  revert rd rs1
  decide

theorem chainError_latchInv {s : State} {e : ErrCode} {idx : BitVec 8} {v : RingValue} (hsize : TableSized s)
    (h : ChainError s e idx) (hv : ∃ rd rs1, v = cmdValue (.afwd rd rs1) ∨ v = cmdValue (.ainv rd rs1)) :
    LatchInv (raiseError e idx v s) := by
  cases h with
  | length => exact ⟨hsize, rfl, hv⟩
  | layer k _ hfirst => exact ⟨hsize, invalidLayer_index_lt hfirst, hv⟩

theorem raises_latchInv {i : Instr} {s : State} {e : ErrCode} {idx : BitVec 8} (hsize : TableSized s)
    (h : Raises s i e idx) : LatchInv (raiseError e idx (cmdValue i) s) := by
  cases h with
  | modinv rd rs1 => exact ⟨hsize, rfl, rd, rs1, rfl⟩
  | afwd rd rs1 h => exact chainError_latchInv hsize h ⟨rd, rs1, .inl rfl⟩
  | ainv rd rs1 h => exact chainError_latchInv hsize h ⟨rd, rs1, .inr rfl⟩
  | decomp rd rs1 => exact ⟨hsize, rfl, _, decode_decomp_same_destination rd rs1⟩

theorem commandEffect_keeps_latchInv {i : Instr} {s t : State} (h : CommandEffect i s t) (hinv : LatchInv s) :
    LatchInv t := by
  cases h with
  | heldBack => exact hinv
  | wrote x => exact latchInv_of_sameLatch ⟨rfl, rfl, rfl, rfl⟩ hinv
  | raised _ h => exact raises_latchInv hinv.1 h
  | cleared => exact latchInv_of_nothing_recorded hinv.1 rfl rfl rfl

theorem illegalCommand_keeps_latchInv {v : RingValue} {why : Illegal} {s : State} (hdecode : decode v = .illegal why)
    (hinv : LatchInv s) : LatchInv (illegalCommand v s) := by
  obtain ⟨-, heq⟩ | ⟨-, heq⟩ := illegalCommand_cases v s
  · rw [heq]
    exact ⟨hinv.1, rfl, why, hdecode⟩
  · rwa [heq]

theorem reply_keeps_latchInv (r : Reply) {s : State} (hinv : LatchInv s) : LatchInv (reply r s) :=
  latchInv_of_sameLatch ⟨rfl, rfl, rfl, rfl⟩ hinv

theorem writeCmd_keeps_latchInv (v : RingValue) {s t : State} (hinv : LatchInv s) (h : writeCmd v s = .next t) :
    LatchInv t := by
  obtain ⟨u, hu, heffect⟩ := execCmd_effect v s
  obtain rfl : reply .ok u = t := by simpa [writeCmd_of_execCmd hu] using h
  apply reply_keeps_latchInv
  obtain ⟨i, -, heffect⟩ | ⟨why, hdecode, rfl⟩ := heffect
  · exact commandEffect_keeps_latchInv heffect hinv
  · exact illegalCommand_keeps_latchInv hdecode hinv

theorem hostRead_keeps_latchInv (n : RegNum) {s : State} (hinv : LatchInv s) : LatchInv (hostRead n s) := by
  obtain ⟨v, -, heq⟩ | ⟨-, heq⟩ := hostRead_cases n s <;>
    exact heq ▸ reply_keeps_latchInv _ hinv

/-- No store reaches the latch: the registers stored are data registers, CHLEN and table words (20_memory.md R51). -/
theorem poke_sameLatch {n : RegNum} {v : RingValue} {s t : State} (h : poke n v s = some t) : SameLatch s t := by
  obtain ⟨i, -, rfl⟩ | ⟨-, rfl⟩ | ⟨i, -, rfl⟩ | ⟨i, -, rfl⟩ := poke_cases h
  · exact ⟨rfl, rfl, rfl, rfl⟩
  · exact ⟨rfl, rfl, rfl, rfl⟩
  · exact ⟨writeLA_chainMax i v s, rfl, rfl, rfl⟩
  · exact ⟨writeLB_chainMax i v s, rfl, rfl, rfl⟩

theorem hostStore_keeps_latchInv (n : RegNum) (v : RingValue) {s : State} (hinv : LatchInv s) :
    LatchInv (hostStore n v s) := by
  obtain ⟨t, ht, heq⟩ | ⟨-, heq⟩ := hostStore_cases n v s
  · rw [heq]
    exact reply_keeps_latchInv _ (latchInv_of_sameLatch (poke_sameLatch ht) hinv)
  · rw [heq]
    exact reply_keeps_latchInv _ hinv

theorem hostReset_latchInv {s : State} (hsize : TableSized s) : LatchInv (hostReset s) := by
  refine latchInv_of_nothing_recorded ?_ rfl rfl rfl
  rwa [TableSized, hostReset_chainMax]

/-- Settles O46: the transaction taken is a read, a CMD write, another write or a reset, and each keeps the invariant. -/
theorem everyStepKeepsTheLatchInvariant : Obligations.EveryStepKeepsTheLatchInvariant := by
  intro s t hinv h
  have htaken : ∀ rest, LatchInv { s with script := rest } := fun _ =>
    latchInv_of_sameLatch ⟨rfl, rfl, rfl, rfl⟩ hinv
  obtain ⟨-, heq⟩ | ⟨n, rest, -, heq⟩ | ⟨v, rest, -, heq⟩ | ⟨n, v, rest, -, -, heq⟩ | ⟨rest, -, heq⟩ := step_cases s
  · exact Host.Outcome.next.inj (heq.symm.trans h) ▸ hinv
  · exact Host.Outcome.next.inj (heq.symm.trans h) ▸ hostRead_keeps_latchInv n (htaken rest)
  · exact writeCmd_keeps_latchInv v (htaken rest) (heq.symm.trans h)
  · exact Host.Outcome.next.inj (heq.symm.trans h) ▸ hostStore_keeps_latchInv n v (htaken rest)
  · exact Host.Outcome.next.inj (heq.symm.trans h) ▸ hostReset_latchInv (htaken rest).1

theorem resetOf_latchInv {n : Nat} (hlow : 1 ≤ n) (hhigh : n ≤ 256) : LatchInv (State.resetOf n) := by
  have hmax : (State.resetOf n).chainMax = n := by simp [State.resetOf, State.chainMax]
  refine latchInv_of_nothing_recorded ?_ rfl rfl rfl
  rw [TableSized, hmax]
  exact ⟨hlow, hhigh⟩

/-- Settles O45: `State.reset` is the case CHAIN_MAX = 16. -/
theorem resetMeetsTheLatchInvariant : Obligations.ResetMeetsTheLatchInvariant :=
  ⟨resetOf_latchInv (by decide) (by decide), fun _ => resetOf_latchInv⟩

end Sys2Proof.Proofs
end

section
/-! PROOF. The fields of STATUS (10_state.md R28, R29, R33), read off the concatenation `ERRIDX ++ 0000 ++ ERR`. -/

namespace Sys2Proof.Proofs

open Sys2Proof.Machine Sys2Proof.Claims

theorem statusValue_getLsbD (s : State) (k : Nat) :
    (statusValue s).getLsbD k =
      if k < 4 then (errNumber s.err).getLsbD k else if k < 8 then false else s.erridx.getLsbD (k - 8) := by
  unfold statusValue
  rw [BitVec.getLsbD_setWidth, BitVec.getLsbD_append, BitVec.getLsbD_append]
  by_cases hlow : k < 4
  · simp [hlow, show k < 64 by omega]
  · by_cases hmid : k < 8
    · simp [hlow, hmid, show k - 4 < 4 by omega]
    · by_cases hhigh : k < 64
      · simp [hlow, hmid, hhigh, show ¬ k - 4 < 4 by omega, show k - 4 - 4 = k - 8 by omega]
      · simp [hlow, hmid, hhigh, BitVec.getLsbD_of_ge s.erridx (k - 8) (by omega)]

theorem statusValue_err (s : State) : (statusValue s).extractLsb' 0 4 = errNumber s.err := by
  ext k hk
  simp [statusValue_getLsbD, hk]

theorem statusValue_reserved_low (s : State) : (statusValue s).extractLsb' 4 4 = 0#4 := by
  ext k hk
  simp [statusValue_getLsbD, show 4 + k < 8 by omega]

theorem statusValue_erridx (s : State) : (statusValue s).extractLsb' 8 8 = s.erridx := by
  ext k hk
  simp [statusValue_getLsbD, show ¬ 8 + k < 4 by omega, hk]

theorem statusValue_reserved_high (s : State) : (statusValue s).extractLsb' 16 48 = 0#48 := by
  ext k hk
  simp [statusValue_getLsbD, show ¬ 16 + k < 4 by omega, show ¬ 16 + k < 8 by omega,
    BitVec.getLsbD_of_ge s.erridx (16 + k - 8) (by omega)]

theorem errNumber_injective : Function.Injective errNumber := by
  intro e f h
  revert h
  cases e <;> cases f <;> decide

theorem errNumber_le (e : ErrCode) : (errNumber e).toNat ≤ 4 := by
  cases e <;> decide

/-- Settles O43: bits 3:0 are `errNumber` of the code, which is injective. -/
theorem statusFields : Obligations.StatusFields := by
  intro s v h
  obtain rfl : statusValue s = v := Option.some.inj h
  rw [statusValue_err]
  exact ⟨errNumber_injective.eq_iff (b := .none), errNumber_injective.eq_iff (b := .invalidLayer),
    errNumber_injective.eq_iff (b := .notInvertible), errNumber_injective.eq_iff (b := .illegalCommand),
    errNumber_injective.eq_iff (b := .chainLength), errNumber_le s.err, statusValue_reserved_low s,
    statusValue_erridx s, statusValue_reserved_high s⟩

end Sys2Proof.Proofs
end

section
/-! PROOF. The host's registers (20_memory.md R51 to R55): the map read backwards, what one store leaves, and the
step of a HostRead and of a HostWrite elsewhere than to CMD. -/

namespace Sys2Proof.Proofs

open Sys2Proof.Machine Sys2Proof.Claims

/-! ### The map of register numbers -/

/-- The rows of the map of 20_memory.md R51, each register's name beside its numbers, for a table of `size` entries. -/
inductive Names (size : Nat) (n : RegNum) : RegName → Prop where
  | data (r : DReg) (hn : n.toNat = r.val) : Names size n (.data r)
  | cmd (hn : n.toNat = 0x010) : Names size n .cmd
  | status (hn : n.toNat = 0x011) : Names size n .status
  | ecmd (hn : n.toNat = 0x012) : Names size n .ecmd
  | chlen (hn : n.toNat = 0x013) : Names size n .chlen
  | la (i : Nat) (hi : i < size) (hn : n.toNat = 0x200 + 2 * i) : Names size n (.la i)
  | lb (i : Nat) (hi : i < size) (hn : n.toNat = 0x201 + 2 * i) : Names size n (.lb i)
  | unimplemented (hn : (0x008 ≤ n.toNat ∧ n.toNat ≤ 0x00F) ∨ (0x014 ≤ n.toNat ∧ n.toNat ≤ 0x1FF) ∨
      0x200 + 2 * size ≤ n.toNat) : Names size n .unimplemented

theorem names_regName (size : Nat) (n : RegNum) : Names size n (regName size n) := by
  unfold regName
  split_ifs with hdata hcmd hstatus hecmd hchlen htable heven
  · exact .data _ rfl
  · exact .cmd hcmd
  · exact .status hstatus
  · exact .ecmd hecmd
  · exact .chlen hchlen
  · exact .la _ (by omega) (by omega)
  · exact .lb _ (by omega) (by omega)
  · exact .unimplemented (by omega)

theorem map_entry_a {s : State} {i : Nat} (hi : i < s.chainMax) :
    (s.table[i]?.map fun l => l.a.value) = some (layerA s i) := by
  simp [layerA, List.getElem?_eq_getElem (show i < s.table.length from hi)]

theorem map_entry_b {s : State} {i : Nat} (hi : i < s.chainMax) :
    (s.table[i]?.map fun l => l.b.value) = some (layerB s i) := by
  simp [layerB, List.getElem?_eq_getElem (show i < s.table.length from hi)]

/-- The statement's column HostRead is the model's, AccessError standing for no value. -/
theorem readColumn_eq_peek (s : State) (n : RegNum) : readColumn s n = (peek n s).elim .accessError .value := by
  have hname := names_regName s.chainMax n
  unfold peek readColumn
  generalize regName s.chainMax n = r at hname ⊢
  cases hname with
  | data r hn => simp [readData, hn]
  | cmd hn | ecmd hn | chlen hn => simp [hn]
  | status hn => simp [statusValue, hn]
  | la i hi hn =>
    have hindex : (n.toNat - 0x200) / 2 = i := by omega
    simp only [map_entry_a hi, hindex, Option.elim_some]
    rw [dif_neg (by omega), if_neg (by omega), if_neg (by omega), if_neg (by omega), if_pos (by omega),
      if_pos (by omega)]
  | lb i hi hn =>
    have hindex : (n.toNat - 0x201) / 2 = i := by omega
    simp only [map_entry_b hi, hindex, Option.elim_some]
    rw [dif_neg (by omega), if_neg (by omega), if_neg (by omega), if_neg (by omega), if_pos (by omega),
      if_neg (by omega)]
  | unimplemented hn =>
    rw [dif_neg (by omega), if_neg (by omega), if_neg (by omega), if_neg (by omega), if_neg (by omega)]
    rfl

theorem peek_eq_none {n : RegNum} {s : State} (h : Unimplemented s n ∨ n.toNat = 0x010) : peek n s = none := by
  have hname := names_regName s.chainMax n
  unfold Unimplemented at h
  unfold peek
  generalize regName s.chainMax n = r at hname ⊢
  cases hname with
  | cmd | unimplemented => rfl
  | data | status | ecmd | chlen | la | lb => omega

theorem poke_eq_none {n : RegNum} {s : State} (h : Unimplemented s n ∨ n.toNat = 0x011 ∨ n.toNat = 0x012)
    (v : RingValue) : poke n v s = none := by
  have hname := names_regName s.chainMax n
  unfold Unimplemented at h
  unfold poke
  generalize regName s.chainMax n = r at hname ⊢
  cases hname with
  | status | ecmd | unimplemented => rfl
  | data | cmd | chlen | la | lb => omega

theorem exists_poke_of_stores {n : RegNum} {s : State} (h : Stores s n) (v : RingValue) :
    ∃ t, poke n v s = some t := by
  have hname := names_regName s.chainMax n
  unfold Stores at h
  unfold poke
  generalize regName s.chainMax n = r at hname ⊢
  cases hname with
  | data | chlen | la | lb => exact ⟨_, rfl⟩
  | cmd | status | ecmd | unimplemented => omega

/-! ### The effect of one store -/

/-- `t` is `s` with `v` stored in register number `n` and marked written, and nothing else changed. -/
structure Stored (n : RegNum) (v : RingValue) (s t : State) : Prop where
  chainMax : t.chainMax = s.chainMax
  err : t.err = s.err
  erridx : t.erridx = s.erridx
  ecmd : t.ecmd = s.ecmd
  chlen : t.chlen = if n.toNat = 0x013 then v else s.chlen
  x (r : DReg) : t.x[r] = if n.toNat = r.val then ⟨v, true⟩ else s.x[r]
  table (i : Nat) : t.table[i]? = s.table[i]?.map fun l =>
    { a := if n.toNat = 0x200 + 2 * i then ⟨v, true⟩ else l.a
      b := if n.toNat = 0x201 + 2 * i then ⟨v, true⟩ else l.b }

theorem stored_writeData {n : RegNum} {r : DReg} (hn : n.toNat = r.val) (v : RingValue) (s : State) :
    Stored n v s (writeData r v s) where
  chainMax := rfl
  err := rfl
  erridx := rfl
  ecmd := rfl
  chlen := by simp [show n.toNat ≠ 0x013 by omega]
  x q := by
    by_cases hq : q = r
    · rw [hq, x_writeData_same, if_pos hn]
    · have hval : r.val ≠ q.val := fun e => hq (Fin.ext e.symm)
      rw [x_writeData_ne hq, hn, if_neg hval]
  table i := by simp [show n.toNat ≠ 0x200 + 2 * i by omega, show n.toNat ≠ 0x201 + 2 * i by omega]

theorem stored_writeChlen {n : RegNum} (hn : n.toNat = 0x013) (v : RingValue) (s : State) :
    Stored n v s (writeChlen v s) where
  chainMax := rfl
  err := rfl
  erridx := rfl
  ecmd := rfl
  chlen := by simp [hn]
  x q := by simp [show n.toNat ≠ q.val by omega]
  table i := by simp [show n.toNat ≠ 0x200 + 2 * i by omega, show n.toNat ≠ 0x201 + 2 * i by omega]

theorem stored_writeLA {n : RegNum} {i : Nat} (hn : n.toNat = 0x200 + 2 * i) (v : RingValue) (s : State) :
    Stored n v s (writeLA i v s) where
  chainMax := writeLA_chainMax i v s
  err := rfl
  erridx := rfl
  ecmd := rfl
  chlen := by simp [show n.toNat ≠ 0x013 by omega]
  x q := by simp [show n.toNat ≠ q.val by omega]
  table j := by
    have hodd : n.toNat ≠ 0x201 + 2 * j := by omega
    by_cases hj : i = j
    · simp [writeLA_entry, hn, hj]
    · simp [writeLA_entry, hj, hodd, show n.toNat ≠ 0x200 + 2 * j by omega]

theorem stored_writeLB {n : RegNum} {i : Nat} (hn : n.toNat = 0x201 + 2 * i) (v : RingValue) (s : State) :
    Stored n v s (writeLB i v s) where
  chainMax := writeLB_chainMax i v s
  err := rfl
  erridx := rfl
  ecmd := rfl
  chlen := by simp [show n.toNat ≠ 0x013 by omega]
  x q := by simp [show n.toNat ≠ q.val by omega]
  table j := by
    have heven : n.toNat ≠ 0x200 + 2 * j := by omega
    by_cases hj : i = j
    · simp [writeLB_entry, hn, hj]
    · simp [writeLB_entry, hj, heven, show n.toNat ≠ 0x201 + 2 * j by omega]

theorem poke_stored {n : RegNum} {v : RingValue} {s t : State} (h : poke n v s = some t) : Stored n v s t := by
  have hname := names_regName s.chainMax n
  obtain ⟨r, hreg, rfl⟩ | ⟨hreg, rfl⟩ | ⟨i, hreg, rfl⟩ | ⟨i, hreg, rfl⟩ := poke_cases h <;>
    rw [hreg] at hname
  · cases hname with | data _ hn => exact stored_writeData hn v s
  · cases hname with | chlen hn => exact stored_writeChlen hn v s
  · cases hname with | la _ _ hn => exact stored_writeLA hn v s
  · cases hname with | lb _ _ hn => exact stored_writeLB hn v s

theorem poke_replies {n : RegNum} {v : RingValue} {s t : State} (h : poke n v s = some t) : t.replies = s.replies := by
  obtain ⟨r, -, rfl⟩ | ⟨-, rfl⟩ | ⟨i, -, rfl⟩ | ⟨i, -, rfl⟩ := poke_cases h <;> rfl

theorem Stored.stores {n m : RegNum} {v : RingValue} {s t : State} (h : Stored n v s t) (hm : Stores s m) :
    Stores t m := by
  rwa [Stores, h.chainMax]

/-! ### Storing the same value again -/

@[simp] theorem writeData_writeData_same (r : DReg) (v w : RingValue) (s : State) :
    writeData r w (writeData r v s) = writeData r w s := by
  simp [writeData]

@[simp] theorem writeLA_writeLA_same (i : Nat) (v w : RingValue) (s : State) :
    writeLA i w (writeLA i v s) = writeLA i w s := by
  simp [writeLA, List.modify_modify_eq, Function.comp_def]

@[simp] theorem writeLB_writeLB_same (i : Nat) (v w : RingValue) (s : State) :
    writeLB i w (writeLB i v s) = writeLB i w s := by
  simp [writeLB, List.modify_modify_eq, Function.comp_def]

@[simp] theorem writeChlen_writeChlen (v w : RingValue) (s : State) :
    writeChlen w (writeChlen v s) = writeChlen w s := rfl

@[simp] theorem writeChlen_chainMax (v : RingValue) (s : State) : (writeChlen v s).chainMax = s.chainMax := rfl

/-- A second store of the same value finds the register as the first one left it. -/
theorem poke_again {n : RegNum} {v : RingValue} {s t : State} (h : poke n v s = some t) : poke n v t = some t := by
  obtain ⟨r, hreg, rfl⟩ | ⟨hreg, rfl⟩ | ⟨i, hreg, rfl⟩ | ⟨i, hreg, rfl⟩ := poke_cases h <;>
    simp [poke, hreg]

/-! ### What a register reads as after a store -/

theorem peek_of_stored_same {n : RegNum} {v : RingValue} {s t : State} (h : Stored n v s t) (hn : Stores s n) :
    peek n t = some v := by
  have hname := names_regName s.chainMax n
  unfold Stores at hn
  unfold peek
  rw [h.chainMax]
  generalize regName s.chainMax n = r at hname ⊢
  cases hname with
  | data r hn => simp [readData, h.x, hn]
  | chlen hn => simp [h.chlen, hn]
  | la i hi hn => simp [h.table, hn, List.getElem?_eq_getElem (show i < s.table.length from hi)]
  | lb i hi hn => simp [h.table, hn, List.getElem?_eq_getElem (show i < s.table.length from hi)]
  | cmd | status | ecmd | unimplemented => omega

theorem peek_of_stored_ne {n m : RegNum} {v : RingValue} {s t : State} (h : Stored n v s t) (hne : m ≠ n) :
    peek m t = peek m s := by
  have hname := names_regName s.chainMax m
  have hnum : n.toNat ≠ m.toNat := fun e => hne (BitVec.eq_of_toNat_eq e.symm)
  unfold peek
  rw [h.chainMax]
  generalize regName s.chainMax m = r at hname ⊢
  cases hname with
  | data r hm => simp [readData, h.x, ← hm, hnum]
  | cmd | unimplemented => rfl
  | status => simp [statusValue, h.err, h.erridx]
  | ecmd => simp [h.ecmd]
  | chlen hm => simp [h.chlen, ← hm, hnum]
  | la i _ hm => simp [h.table, ← hm, hnum, Function.comp_def]
  | lb i _ hm => simp [h.table, ← hm, hnum, Function.comp_def]

/-! ### The steps -/

/-- Storing does not look at what the host has still to do or has been told, and leaves it alone. -/
theorem poke_onlyReplied (n : RegNum) (v : RingValue) (r : Reply) (rest : List Transaction) (s : State) :
    poke n v (onlyReplied r rest s) = (poke n v s).map (onlyReplied r rest) := by
  unfold poke
  rw [show (onlyReplied r rest s).chainMax = s.chainMax from rfl]
  cases regName s.chainMax n <;> rfl

/-- What a HostWrite elsewhere than to CMD leaves, once it is taken from the script. -/
theorem hostStore_taken (n : RegNum) (v : RingValue) (rest : List Transaction) (s : State) :
    hostStore n v { s with script := rest } =
      (poke n v s).elim (onlyReplied .accessError rest s) (onlyReplied .ok rest) := by
  unfold hostStore poke
  rw [show State.chainMax { s with script := rest } = s.chainMax from rfl]
  cases regName s.chainMax n <;> rfl

theorem step_write {n : RegNum} {v : RingValue} {rest : List Transaction} {s : State}
    (hs : s.script = .write n v :: rest) (hn : n.toNat ≠ 0x010) :
    step s = .next ((poke n v s).elim (onlyReplied .accessError rest s) (onlyReplied .ok rest)) := by
  have hcmd : n ≠ cmdNumber := fun e => hn (congrArg BitVec.toNat e)
  simp [step, nextTransaction, hs, perform, hostWrite, hcmd, hostStore_taken]

theorem step_write_of_poke {n : RegNum} {v : RingValue} {rest : List Transaction} {s t : State}
    (hs : s.script = .write n v :: rest) (h : Stores s n) (ht : poke n v s = some t) :
    step s = .next (onlyReplied .ok rest t) := by
  unfold Stores at h
  rw [step_write hs (by omega), ht, Option.elim_some]

theorem step_read {n : RegNum} {rest : List Transaction} {s : State} (hs : s.script = .read n :: rest) :
    step s = .next (onlyReplied (readColumn s n) rest s) := by
  have hpeek : peek n { s with script := rest } = peek n s := rfl
  rw [readColumn_eq_peek]
  cases hp : peek n s <;> simp [step, nextTransaction, hs, perform, hostRead, hpeek, hp, onlyReplied, reply]

/-! ### The obligations -/

/-- Settles O39: the column of the map is the model's `peek`. -/
theorem hostReadFollowsTheMap : Obligations.HostReadFollowsTheMap :=
  fun _ _ _ => step_read

/-- Settles O40: `Stored` fixes every word after the store, and the reads follow from the words. -/
theorem hostWriteIsReadBack : Obligations.HostWriteIsReadBack := by
  intro n v rest s hs hn
  obtain ⟨t, ht⟩ := exists_poke_of_stores hn v
  have h := poke_stored ht
  have hreads (m : RegNum) : readColumn (onlyReplied .ok rest t) m = (peek m t).elim .accessError .value :=
    readColumn_eq_peek (onlyReplied .ok rest t) m
  refine ⟨_, step_write_of_poke hs hn ht, rfl, ?_, h.chainMax, ?_, fun m hm => ?_, h.err, h.erridx, h.ecmd,
    fun hchlen => h.chlen.trans (if_neg hchlen), h.x, h.table⟩
  · exact congrArg (Reply.ok :: ·) (poke_replies ht)
  · rw [hreads, peek_of_stored_same h hn, Option.elim_some]
  · rw [hreads, peek_of_stored_ne h hm, readColumn_eq_peek]

/-- Settles O41: in these cases `peek` and `poke` give none. -/
theorem accessErrorChangesNothing : Obligations.AccessErrorChangesNothing := by
  constructor
  · intro n rest s hs h
    rw [step_read hs, readColumn_eq_peek, peek_eq_none h, Option.elim_none]
  · intro n v rest s hs h
    have hcmd : n.toNat ≠ 0x010 := by
      unfold Unimplemented at h
      omega
    rw [step_write hs hcmd, poke_eq_none h, Option.elim_none]

/-- Settles O42, by `poke_again`. -/
theorem hostWriteTwiceIsOnce : Obligations.HostWriteTwiceIsOnce := by
  intro n v rest s hs hn
  obtain ⟨t, ht⟩ := exists_poke_of_stores hn v
  refine ⟨_, step_write_of_poke hs hn ht, step_write_of_poke rfl ?_ ?_⟩
  · exact (poke_stored ht).stores hn
  · rw [poke_onlyReplied, poke_again ht, Option.map_some]

end Sys2Proof.Proofs
end

section
/-! PROOF. The host side's Pack and Unpack (20_memory.md R58, R59): Pack as a sum of bytes, and the bytes of
what it packs. -/

namespace Sys2Proof.Proofs

open Sys2Proof.Machine

/-! ### Pack as a number -/

/-- One byte taken in, where the value so far leaves room for it. -/
theorem toNat_shift_byte {v : RingValue} (b : Byte) (h : v.toNat < 2 ^ 56) :
    ((v <<< 8) ||| b.setWidth 64).toNat = v.toNat * 2 ^ 8 + b.toNat := by
  have hb : b.toNat < 2 ^ 8 := b.isLt
  have hshift : (v <<< 8).toNat = 2 ^ 8 * v.toNat := by
    rw [BitVec.toNat_shiftLeft, Nat.shiftLeft_eq]
    omega
  rw [BitVec.toNat_or, hshift, BitVec.toNat_setWidth, Nat.mod_eq_of_lt (by omega), ← Nat.two_pow_add_eq_or_of_lt hb,
    Nat.mul_comm]

/-- The bytes follow the value so far in base 256, first byte most significant, as long as all of it fits 64 bits. -/
theorem toNat_packFrom (p : List Byte) (v : RingValue) (h : (v.toNat + 1) * 2 ^ (8 * p.length) ≤ 2 ^ 64) :
    (packFrom p v).toNat = v.toNat * 2 ^ (8 * p.length) +
      ∑ k ∈ Finset.range p.length, (p.getD k 0#8).toNat * 2 ^ (8 * (p.length - 1 - k)) := by
  induction p generalizing v with
  | nil => simp [packFrom]
  | cons b rest ih =>
    have hb : b.toNat < 2 ^ 8 := b.isLt
    have hpow : 2 ^ (8 * (rest.length + 1)) = 2 ^ 8 * 2 ^ (8 * rest.length) := by
      rw [Nat.mul_succ, Nat.add_comm, pow_add]
    rw [List.length_cons, hpow, ← Nat.mul_assoc] at h
    have hroom : v.toNat < 2 ^ 56 := by
      have := (Nat.le_mul_of_pos_right _ (Nat.two_pow_pos _)).trans h
      omega
    have hv := toNat_shift_byte b hroom
    have hfits : (((v <<< 8) ||| b.setWidth 64).toNat + 1) * 2 ^ (8 * rest.length) ≤ 2 ^ 64 :=
      (Nat.mul_le_mul_right _ (by omega)).trans h
    rw [packFrom, ih _ hfits, hv, List.length_cons, Finset.sum_range_succ', hpow]
    simp only [List.getD_cons_succ, List.getD_cons_zero, Nat.add_sub_cancel, Nat.sub_zero, Nat.sub_sub, Nat.add_comm 1]
    ring

/-! ### The bytes of the packed value -/

theorem packFrom_concat (p : List Byte) (b : Byte) (v : RingValue) :
    packFrom (p ++ [b]) v = (packFrom p v <<< 8) ||| b.setWidth 64 := by
  induction p generalizing v with
  | nil => rfl
  | cons c rest ih => exact ih _

theorem shift_byte_low (v : RingValue) (b : Byte) : ((v <<< 8) ||| b.setWidth 64).extractLsb' 0 8 = b := by
  ext i hi
  simp [hi, show i < 64 by omega]

theorem shift_byte_high (v : RingValue) (b : Byte) {j : Nat} (hj : j < 7) :
    ((v <<< 8) ||| b.setWidth 64).extractLsb' (8 * (j + 1)) 8 = v.extractLsb' (8 * j) 8 := by
  ext i hi
  simp [show 8 * (j + 1) + i < 64 by omega, show ¬ 8 * (j + 1) + i < 8 by omega,
    show 8 * (j + 1) + i - 8 = 8 * j + i by omega, BitVec.getLsbD_of_ge b (8 * (j + 1) + i) (by omega),
    BitVec.getLsbD_eq_getElem (show 8 * j + i < 64 by omega)]

/-- The byte `j` places above the lowest is the one `j` places before the last of the list. -/
theorem packFrom_byte (p : List Byte) (v : RingValue) {j : Nat} (hj : j < 8) (hp : j < p.length) :
    (packFrom p v).extractLsb' (8 * j) 8 = p[p.length - 1 - j] := by
  induction p using List.reverseRecOn generalizing j with
  | nil => simp at hp
  | append_singleton p b ih =>
    rw [packFrom_concat]
    cases j with
    | zero => simp [shift_byte_low]
    | succ j =>
      have hlen : j < p.length := by simpa using hp
      rw [shift_byte_high _ b (by omega), ih (by omega) hlen]
      simp [show p.length - (j + 1) < p.length by omega,
        show p.length - 1 - j = p.length - (j + 1) by omega]

/-! ### Unpack -/

@[simp] theorem length_unpackBytes (v : RingValue) : (unpackBytes v).length = 8 := by
  simp [unpackBytes]

theorem unpackBytes_entry (v : RingValue) {k : Nat} (hk : k < 8) :
    (unpackBytes v)[k]? = some (v.extractLsb' (56 - 8 * k) 8) := by
  simp [unpackBytes, unpackByte, hk]

theorem unpackBytes_packFrom {p : List Byte} (hp : p.length = 8) (v : RingValue) : unpackBytes (packFrom p v) = p := by
  apply List.ext_getElem (by simp [hp])
  intro k hk _
  rw [length_unpackBytes] at hk
  have hentry := (List.getElem?_eq_some_iff.mp (unpackBytes_entry (packFrom p v) hk)).2
  rw [hentry, show 56 - 8 * k = 8 * (7 - k) by omega, packFrom_byte p v (by omega) (by omega)]
  simp [hp, show 7 - (7 - k) = k by omega]

/-- Bit `i` of a value lies in byte `7 - i / 8` of its big-endian bytes. -/
theorem unpackBytes_injective : Function.Injective unpackBytes := by
  intro v w h
  apply BitVec.eq_of_getLsbD_eq
  intro i hi
  have hmod : i % 8 < 8 := Nat.mod_lt _ (by decide)
  have hbyte : v.extractLsb' (8 * (i / 8)) 8 = w.extractLsb' (8 * (i / 8)) 8 := by
    have hk : 7 - i / 8 < 8 := by omega
    have hentry := (unpackBytes_entry v hk).symm.trans (h ▸ unpackBytes_entry w hk)
    rw [show 8 * (i / 8) = 56 - 8 * (7 - i / 8) by omega]
    exact Option.some.inj hentry
  simpa [hmod, Nat.div_add_mod] using congrArg (BitVec.getLsbD · (i % 8)) hbyte

/-- Settles O48: the bytes of the packed value give one inverse, and the other because the bytes fix the value. -/
theorem packAndUnpackAreInverse : Obligations.PackAndUnpackAreInverse := by
  refine ⟨fun p hp => ⟨packFrom p 0#64, by simp [pack, hp], unpackBytes_packFrom hp _, ?_⟩,
    fun p hp => by simp [pack, hp], fun v => ⟨?_, fun k hk => unpackBytes_entry v hk⟩⟩
  · simpa [hp] using toNat_packFrom p 0#64 (by simp [hp])
  · have hv := unpackBytes_injective (unpackBytes_packFrom (length_unpackBytes v) 0#64)
    simp [pack, hv]

end Sys2Proof.Proofs
end

section
/-! PROOF. The decoder of 30_encoding.md R93: `SpelledBy` lists the words the decoder accepts, by the masks of R86; the
encoding of R97 and the bit ranges of R90 are compared with that list. -/

namespace Sys2Proof.Proofs

open Sys2Proof.Machine Sys2Proof.Claims Sys2Proof.Laws

/-! ### Bit ranges of a command word -/

/-- The mask that keeps the `len` bits of a command word from bit `lo` up. -/
def bitRange (lo len : Nat) : CmdWord := (BitVec.allOnes len).setWidth 32 <<< lo

theorem and_bitRange (w : CmdWord) (lo len : Nat) :
    w &&& bitRange lo len = (w.extractLsb' lo len).setWidth 32 <<< lo := by
  ext i hi
  by_cases hlo : i < lo
  · simp [bitRange, hlo]
  · simp [bitRange, hlo, show lo + (i - lo) = i by omega, Bool.and_comm, hi]

theorem and_bitRange_eq_zero_iff (w : CmdWord) {lo len : Nat} (h : lo + len ≤ 32) :
    w &&& bitRange lo len = 0#32 ↔ w.extractLsb' lo len = 0#len := by
  rw [and_bitRange]
  constructor
  · intro hzero
    ext i hi
    simpa [hi, show lo + i < 32 by omega, show ¬ lo + i < lo by omega]
      using congrArg (BitVec.getLsbD · (lo + i)) hzero
  · intro hzero
    simp [hzero]

theorem zextReg_regField (w : CmdWord) (lo : Nat) : zextReg (regField w lo) <<< lo = w &&& bitRange lo 3 := by
  rw [and_bitRange, zextReg, regField, BitVec.ofNat_toNat]

theorem regField_eq_iff (w : CmdWord) (lo lo' : Nat) :
    regField w lo = regField w lo' ↔ w.extractLsb' lo 3 = w.extractLsb' lo' 3 := by
  rw [regField, regField, Fin.mk.injEq, BitVec.toNat_inj]

/-! ### The low half of a value written to CMD -/

theorem setWidth_eq_iff (w : CmdWord) (v : RingValue) :
    w.setWidth 64 = v ↔ v.extractLsb' 32 32 = 0#32 ∧ w = v.extractLsb' 0 32 := by
  constructor
  · rintro rfl
    constructor
    · ext i hi
      simp
    · ext i hi
      simp [hi, show i < 64 by omega]
  · rintro ⟨hhigh, rfl⟩
    ext i hi
    by_cases hlow : i < 32
    · simp [hlow, BitVec.getLsbD_eq_getElem hi]
    · simpa [hlow, show i - 32 < 32 by omega, show 32 + (i - 32) = i by omega, hi]
        using (congrArg (BitVec.getLsbD · (i - 32)) hhigh).symm

theorem decode_eq_legal_iff_word (v : RingValue) (i : Instr) :
    decode v = .legal i ↔ v.extractLsb' 32 32 = 0#32 ∧ decodeWord (v.extractLsb' 0 32) = .legal i := by
  by_cases hhigh : v.extractLsb' 32 32 = 0#32 <;> simp [decode, hhigh]

/-! ### The masks of R86 as the bit ranges of R90 -/

/-- A word matches the opcode `op` under the mask of the opcode and the bits `rest` exactly when `op` is its opcode and it
has no bit of `rest`. -/
theorem and_opcode_or_eq_iff {w rest : CmdWord} {op : Nat} (hop : op < 256) (hrest : bitRange 0 8 &&& rest = 0#32) :
    w &&& (bitRange 0 8 ||| rest) = BitVec.ofNat 32 op ↔
      (w.extractLsb' 0 8).toNat = op ∧ w &&& rest = 0#32 := by
  have hopcode (u : CmdWord) : u &&& bitRange 0 8 = BitVec.ofNat 32 op ↔ (u.extractLsb' 0 8).toNat = op := by
    have hlt : (u.extractLsb' 0 8).toNat < 2 ^ 8 := BitVec.isLt _
    rw [and_bitRange, BitVec.shiftLeft_zero, ← BitVec.toNat_inj, BitVec.toNat_setWidth, BitVec.toNat_ofNat,
      Nat.mod_eq_of_lt (by omega), Nat.mod_eq_of_lt (by omega)]
  have hkeep : BitVec.ofNat 32 op &&& bitRange 0 8 = BitVec.ofNat 32 op := by
    rw [hopcode]
    simp
    omega
  rw [← hopcode]
  constructor
  · intro h
    constructor
    · calc w &&& bitRange 0 8 = w &&& (bitRange 0 8 ||| rest) &&& bitRange 0 8 := by
            rw [BitVec.and_assoc, BitVec.and_or_distrib_right, BitVec.and_self, BitVec.and_comm rest, hrest,
              BitVec.or_zero]
        _ = BitVec.ofNat 32 op := by rw [h, hkeep]
    · calc w &&& rest = w &&& (bitRange 0 8 ||| rest) &&& rest := by
            rw [BitVec.and_assoc, BitVec.and_or_distrib_right, BitVec.and_self, hrest, BitVec.zero_or]
        _ = BitVec.ofNat 32 op &&& (bitRange 0 8 &&& rest) := by rw [h, ← BitVec.and_assoc, hkeep]
        _ = 0#32 := by rw [hrest, BitVec.and_zero]
  · rintro ⟨hlow, hhigh⟩
    rw [BitVec.and_or_distrib_left, hlow, hhigh, BitVec.or_zero]

section formats
variable (w : CmdWord) {op : Nat} (hop : op < 256)
include hop

theorem matchesU_iff : w &&& maskU = BitVec.ofNat 32 op ↔
    (w.extractLsb' 0 8).toNat = op ∧ w.extractLsb' 11 1 = 0#1 ∧ w.extractLsb' 15 17 = 0#17 := by
  rw [show maskU = bitRange 0 8 ||| (bitRange 11 1 ||| bitRange 15 17) by decide,
    and_opcode_or_eq_iff hop (by decide)]
  simp [BitVec.and_or_distrib_left, BitVec.or_eq_zero_iff, and_bitRange_eq_zero_iff]

theorem matchesS_iff : w &&& maskS = BitVec.ofNat 32 op ↔
    (w.extractLsb' 0 8).toNat = op ∧
      w.extractLsb' 11 1 = 0#1 ∧ w.extractLsb' 15 5 = 0#5 ∧ w.extractLsb' 23 9 = 0#9 := by
  rw [show maskS = bitRange 0 8 ||| (bitRange 11 1 ||| (bitRange 15 5 ||| bitRange 23 9)) by decide,
    and_opcode_or_eq_iff hop (by decide)]
  simp [BitVec.and_or_distrib_left, BitVec.or_eq_zero_iff, and_bitRange_eq_zero_iff]

theorem matchesJ_iff : w &&& maskJ = BitVec.ofNat 32 op ↔
    (w.extractLsb' 0 8).toNat = op ∧
      w.extractLsb' 11 1 = 0#1 ∧ w.extractLsb' 15 1 = 0#1 ∧ w.extractLsb' 19 13 = 0#13 := by
  rw [show maskJ = bitRange 0 8 ||| (bitRange 11 1 ||| (bitRange 15 1 ||| bitRange 19 13)) by decide,
    and_opcode_or_eq_iff hop (by decide)]
  simp [BitVec.and_or_distrib_left, BitVec.or_eq_zero_iff, and_bitRange_eq_zero_iff]

theorem matchesZ_iff : w &&& maskZ = BitVec.ofNat 32 op ↔
    (w.extractLsb' 0 8).toNat = op ∧ w.extractLsb' 8 24 = 0#24 := by
  rw [show maskZ = bitRange 0 8 ||| bitRange 8 24 by decide, and_opcode_or_eq_iff hop (by decide)]
  simp [and_bitRange_eq_zero_iff]

end formats

/-! ### The words the decoder accepts -/

/-- The word `w` spells the command, whose operands are its register fields (30_encoding.md R86, R89). -/
inductive SpelledBy (w : CmdWord) : Instr → Prop where
  | isqrt (h : w &&& maskU = 1#32) : SpelledBy w (.isqrt (fieldRd w) (fieldRs1 w))
  | modinv (h : w &&& maskU = 2#32) : SpelledBy w (.modinv (fieldRd w) (fieldRs1 w))
  | afwd (h : w &&& maskU = 3#32) : SpelledBy w (.afwd (fieldRd w) (fieldRs1 w))
  | ainv (h : w &&& maskU = 4#32) : SpelledBy w (.ainv (fieldRd w) (fieldRs1 w))
  | decomp (h : w &&& maskS = 5#32) (hne : fieldRd w ≠ fieldRd2 w) :
      SpelledBy w (.decomp (fieldRd w) (fieldRd2 w) (fieldRs1 w))
  | recon (h : w &&& maskJ = 6#32) : SpelledBy w (.recon (fieldRd w) (fieldRs1 w) (fieldRs2 w))
  | clrerr (h : w &&& maskZ = 7#32) : SpelledBy w .clrerr

theorem matching_eq_legal_iff {w mask pattern : CmdWord} {i j : Instr} :
    matching w mask pattern i = .legal j ↔ w &&& mask = pattern ∧ i = j := by
  unfold matching
  split <;> simp [*]

theorem spelledBy_of_matching {w mask pattern : CmdWord} {i j : Instr}
    (hmatching : matching w mask pattern i = .legal j) (hspelled : w &&& mask = pattern → SpelledBy w i) : SpelledBy w j := by
  obtain ⟨hmatch, rfl⟩ := matching_eq_legal_iff.mp hmatching
  exact hspelled hmatch

theorem spelledBy_of_decodeWord {w : CmdWord} {i : Instr} (h : decodeWord w = .legal i) : SpelledBy w i := by
  unfold decodeWord at h
  split at h
  case h_1 => exact spelledBy_of_matching h .isqrt
  case h_2 => exact spelledBy_of_matching h .modinv
  case h_3 => exact spelledBy_of_matching h .afwd
  case h_4 => exact spelledBy_of_matching h .ainv
  case h_5 =>
    split at h
    case h_1 => cases h
    case h_2 j hmatching =>
      split at h
      case isTrue => cases h
      case isFalse hne =>
        cases h
        exact spelledBy_of_matching hmatching (.decomp · hne)
  case h_6 => exact spelledBy_of_matching h .recon
  case h_7 => exact spelledBy_of_matching h .clrerr
  case h_8 => cases h

theorem decodeWord_of_spelledBy {w : CmdWord} {i : Instr} (h : SpelledBy w i) : decodeWord w = .legal i := by
  cases h with
  | isqrt h => simp [decodeWord, matching, h, ((matchesU_iff w (by decide)).mp h).1]
  | modinv h => simp [decodeWord, matching, h, ((matchesU_iff w (by decide)).mp h).1]
  | afwd h => simp [decodeWord, matching, h, ((matchesU_iff w (by decide)).mp h).1]
  | ainv h => simp [decodeWord, matching, h, ((matchesU_iff w (by decide)).mp h).1]
  | decomp h hne => simp [decodeWord, matching, h, hne, ((matchesS_iff w (by decide)).mp h).1]
  | recon h => simp [decodeWord, matching, h, ((matchesJ_iff w (by decide)).mp h).1]
  | clrerr h => simp [decodeWord, matching, h, ((matchesZ_iff w (by decide)).mp h).1]

theorem decodeWord_eq_legal_iff (w : CmdWord) (i : Instr) : decodeWord w = .legal i ↔ SpelledBy w i :=
  ⟨spelledBy_of_decodeWord, decodeWord_of_spelledBy⟩

/-! ### Decoding and encoding -/

/-- A register number shifted into one field shows in that field and in no other. -/
theorem zextReg_extractLsb' (r : DReg) : ∀ k ∈ [8, 12, 16, 20], ∀ lo ∈ [8, 12, 16, 20],
    (zextReg r <<< k).extractLsb' lo 3 = if k = lo then BitVec.ofNat 3 r.val else 0#3 := by
  revert r
  decide

theorem fields_encodeFields {op : CmdWord} (hop : ∀ lo ∈ [8, 12, 16, 20], op.extractLsb' lo 3 = 0#3)
    (rd rs1 rs2 rd2 : DReg) :
    fieldRd (encodeFields op rd rs1 rs2 rd2) = rd ∧ fieldRs1 (encodeFields op rd rs1 rs2 rd2) = rs1 ∧
      fieldRs2 (encodeFields op rd rs1 rs2 rd2) = rs2 ∧ fieldRd2 (encodeFields op rd rs1 rs2 rd2) = rd2 := by
  refine ⟨?_, ?_, ?_, ?_⟩ <;>
    simp [fieldRd, fieldRs1, fieldRs2, fieldRd2, regField, encodeFields, BitVec.extractLsb'_or, zextReg_extractLsb',
      hop]

theorem spelledBy_encode {i : Instr} (hwf : i.wf = true) : SpelledBy (encode i) i := by
  cases i with
  | isqrt rd rs1 => simpa [encode, fields_encodeFields] using SpelledBy.isqrt (FormatWord.isqrt rd rs1)
  | modinv rd rs1 => simpa [encode, fields_encodeFields] using SpelledBy.modinv (FormatWord.modinv rd rs1)
  | afwd rd rs1 => simpa [encode, fields_encodeFields] using SpelledBy.afwd (FormatWord.afwd rd rs1)
  | ainv rd rs1 => simpa [encode, fields_encodeFields] using SpelledBy.ainv (FormatWord.ainv rd rs1)
  | decomp rd rd2 rs1 =>
    have hne : rd ≠ rd2 := by simpa [Instr.wf] using hwf
    simpa [encode, fields_encodeFields, hne] using SpelledBy.decomp (FormatWord.decomp rd rd2 rs1)
  | recon rd rs1 rs2 => simpa [encode, fields_encodeFields] using SpelledBy.recon (FormatWord.recon rd rs1 rs2)
  | clrerr => exact .clrerr FormatWord.clrerr

/-- A word's own fields, put back over its bits under the mask `m`, give the word again when together they cover it; an
unused field is the part of the word under the mask 0. -/
theorem encodeFields_of_cover {w op m c d : CmdWord} {rs2 rd2 : DReg} (hmatch : w &&& m = op)
    (hrs2 : zextReg rs2 <<< 16 = w &&& c) (hrd2 : zextReg rd2 <<< 20 = w &&& d)
    (hcover : m ||| bitRange 8 3 ||| bitRange 12 3 ||| c ||| d = BitVec.allOnes 32) :
    encodeFields op (fieldRd w) (fieldRs1 w) rs2 rd2 = w := by
  rw [encodeFields, fieldRd, fieldRs1, zextReg_regField, zextReg_regField, hrs2, hrd2, ← hmatch]
  simp only [← BitVec.and_or_distrib_left, hcover, BitVec.and_allOnes]

theorem zextReg_zero (w : CmdWord) (lo : Nat) : zextReg 0 <<< lo = w &&& 0#32 := by
  simp [zextReg]

theorem encodeFields_of_matchesU {w op : CmdWord} (h : w &&& maskU = op) :
    encodeFields op (fieldRd w) (fieldRs1 w) 0 0 = w :=
  encodeFields_of_cover h (zextReg_zero w 16) (zextReg_zero w 20) (by decide)

theorem encode_of_spelledBy {w : CmdWord} {i : Instr} (h : SpelledBy w i) : i.wf = true ∧ encode i = w := by
  cases h with
  | isqrt h => exact ⟨rfl, encodeFields_of_matchesU h⟩
  | modinv h => exact ⟨rfl, encodeFields_of_matchesU h⟩
  | afwd h => exact ⟨rfl, encodeFields_of_matchesU h⟩
  | ainv h => exact ⟨rfl, encodeFields_of_matchesU h⟩
  | decomp h hne =>
    exact ⟨bne_iff_ne.mpr hne, encodeFields_of_cover h (zextReg_zero w 16) (zextReg_regField w 20) (by decide)⟩
  | recon h => exact ⟨rfl, encodeFields_of_cover h (zextReg_regField w 16) (zextReg_zero w 20) (by decide)⟩
  | clrerr h => exact ⟨rfl, h.symm.trans BitVec.and_allOnes⟩

theorem spelledBy_iff_encode (w : CmdWord) (i : Instr) : SpelledBy w i ↔ i.wf = true ∧ encode i = w := by
  constructor
  · exact encode_of_spelledBy
  · rintro ⟨hwf, rfl⟩
    exact spelledBy_encode hwf

/-- The decoder answers a command exactly for the value that is its encoding (30_encoding.md R93, R97). -/
theorem decode_eq_legal_iff (v : RingValue) (i : Instr) :
    decode v = .legal i ↔ i.wf = true ∧ cmdValue i = v := by
  rw [decode_eq_legal_iff_word, decodeWord_eq_legal_iff, spelledBy_iff_encode, cmdValue, setWidth_eq_iff,
    and_left_comm]

/-- Settles O34: a well-formed command's own encoding is a value that decodes to it. -/
theorem decodeOfEncodeIsTheCommand : Obligations.DecodeOfEncodeIsTheCommand :=
  fun i hwf => (decode_eq_legal_iff (cmdValue i) i).mpr ⟨hwf, rfl⟩

/-- Settles O35: the value decoded is the encoding of the command read from it. -/
theorem legalValueIsTheEncodingOfItsCommand : Obligations.LegalValueIsTheEncodingOfItsCommand :=
  fun v i hdecode => (decode_eq_legal_iff v i).mp hdecode

/-- Settles O36, by running the decoder on the twelve values. -/
theorem wordsOfTheSpecDecode : Obligations.WordsOfTheSpecDecode := by
  unfold Obligations.WordsOfTheSpecDecode
  decide

/-! ### The four cases of an illegal value -/

/-- The accepted words by format (30_encoding.md R82 to R85). -/
theorem exists_spelledBy_iff (w : CmdWord) : (∃ i, SpelledBy w i) ↔
    (∃ op, 1 ≤ op ∧ op ≤ 4 ∧ w &&& maskU = BitVec.ofNat 32 op) ∨
      (w &&& maskS = 5#32 ∧ fieldRd w ≠ fieldRd2 w) ∨ w &&& maskJ = 6#32 ∨ w &&& maskZ = 7#32 := by
  constructor
  · rintro ⟨i, h⟩
    cases h with
    | isqrt h => exact .inl ⟨1, by omega, by omega, h⟩
    | modinv h => exact .inl ⟨2, by omega, by omega, h⟩
    | afwd h => exact .inl ⟨3, by omega, by omega, h⟩
    | ainv h => exact .inl ⟨4, by omega, by omega, h⟩
    | decomp h hne => exact .inr (.inl ⟨h, hne⟩)
    | recon h => exact .inr (.inr (.inl h))
    | clrerr h => exact .inr (.inr (.inr h))
  · rintro (⟨op, hlow, hhigh, h⟩ | ⟨h, hne⟩ | h | h)
    · interval_cases op
      · exact ⟨_, .isqrt h⟩
      · exact ⟨_, .modinv h⟩
      · exact ⟨_, .afwd h⟩
      · exact ⟨_, .ainv h⟩
    · exact ⟨_, .decomp h hne⟩
    · exact ⟨_, .recon h⟩
    · exact ⟨_, .clrerr h⟩

theorem exists_matchesU_iff (w : CmdWord) : (∃ op, 1 ≤ op ∧ op ≤ 4 ∧ w &&& maskU = BitVec.ofNat 32 op) ↔
    1 ≤ (w.extractLsb' 0 8).toNat ∧ (w.extractLsb' 0 8).toNat ≤ 4 ∧
      w.extractLsb' 11 1 = 0#1 ∧ w.extractLsb' 15 17 = 0#17 := by
  constructor
  · rintro ⟨op, hlow, hhigh, h⟩
    obtain ⟨rfl, hreserved⟩ := (matchesU_iff w (by omega)).mp h
    exact ⟨hlow, hhigh, hreserved⟩
  · rintro ⟨hlow, hhigh, hreserved⟩
    exact ⟨_, hlow, hhigh, (matchesU_iff w (by omega)).mpr ⟨rfl, hreserved⟩⟩

/-- The legal values, bit ranges as the formats of 30_encoding.md R82 to R85 give them. -/
theorem exists_decode_eq_legal_iff (v : RingValue) : (∃ i, decode v = .legal i) ↔
    v.extractLsb' 32 32 = 0#32 ∧
    ((1 ≤ (v.extractLsb' 0 8).toNat ∧ (v.extractLsb' 0 8).toNat ≤ 4 ∧
        v.extractLsb' 11 1 = 0#1 ∧ v.extractLsb' 15 17 = 0#17) ∨
      (((v.extractLsb' 0 8).toNat = 5 ∧ v.extractLsb' 11 1 = 0#1 ∧ v.extractLsb' 15 5 = 0#5 ∧
        v.extractLsb' 23 9 = 0#9) ∧ v.extractLsb' 8 3 ≠ v.extractLsb' 20 3) ∨
      ((v.extractLsb' 0 8).toNat = 6 ∧ v.extractLsb' 11 1 = 0#1 ∧ v.extractLsb' 15 1 = 0#1 ∧
        v.extractLsb' 19 13 = 0#13) ∨
      ((v.extractLsb' 0 8).toNat = 7 ∧ v.extractLsb' 8 24 = 0#24)) := by
  simp only [decode_eq_legal_iff_word, decodeWord_eq_legal_iff, exists_and_left, exists_spelledBy_iff,
    exists_matchesU_iff, matchesS_iff _ (show 5 < 256 by decide), matchesJ_iff _ (show 6 < 256 by decide),
    matchesZ_iff _ (show 7 < 256 by decide), fieldRd, fieldRd2, ne_eq, regField_eq_iff]
  simp [BitVec.extractLsb'_extractLsb'_of_le]

/-- The four cases of R90 leave exactly the legal values, opcode by opcode. -/
theorem not_illegalByRule_iff (v : RingValue) : ¬ IllegalByRule v ↔ ∃ i, decode v = .legal i := by
  rw [exists_decode_eq_legal_iff, IllegalByRule]
  generalize (v.extractLsb' 0 8).toNat = op
  obtain hreserved | hU | rfl | rfl | rfl :
      (op = 0 ∨ 8 ≤ op) ∨ (1 ≤ op ∧ op ≤ 4) ∨ op = 5 ∨ op = 6 ∨ op = 7 := by omega
  · have hnone : ¬ (1 ≤ op ∧ op ≤ 4) ∧ op ≠ 5 ∧ op ≠ 6 ∧ op ≠ 7 := by omega
    grind
  · have hother : op ≠ 0 ∧ ¬ 8 ≤ op ∧ op ≠ 5 ∧ op ≠ 6 ∧ op ≠ 7 := by omega
    simp [hU, hother]
  · simp [and_assoc]
  · simp
  · simp

theorem execCmd_of_illegal {v : RingValue} {why : Illegal} (hdecode : decode v = .illegal why) (s : State) :
    execCmd v s = .next (illegalCommand v s) := by
  simp [execCmd, hdecode]

/-- Settles O33: a value in one of the four cases is no command, so it is the illegal command, which the latch holds back
or which is recorded. -/
theorem illegalExactlyByTheFourCases : Obligations.IllegalExactlyByTheFourCases := by
  intro v
  refine ⟨fun hrule => ?_, (not_illegalByRule_iff v).mp⟩
  cases hdecode : decode v with
  | legal i => exact absurd hrule ((not_illegalByRule_iff v).mpr ⟨i, hdecode⟩)
  | illegal why =>
    refine ⟨⟨why, rfl⟩, fun s => ⟨fun hclear => ?_, fun hlatched => ?_⟩⟩
    · rw [execCmd_of_illegal hdecode, illegalCommand, unlessLatched_of_clear hclear, raiseError]
    · rw [execCmd_of_illegal hdecode, illegalCommand, unlessLatched_of_latched hlatched]

end Sys2Proof.Proofs
end

section
/-! PROOF. ISQRT (40_isqrt.md): the bit-pair algorithm of R113 finds the digits of the model's `isqrt` one pass a digit, and
the command writes that root (R110). -/

namespace Sys2Proof.Proofs

open Sys2Proof.Machine Sys2Proof.Claims

/-! ### The bit-pair algorithm -/

/-- With `k` passes to run the variables of `isqrt_ref` hold the digits `q` found so far of the root of `n`: `r` is `q` at the
scale of the pass, `rem` what the square of `q` leaves of `n`, and `bit` the square of the digit to try, `2 ^ (k - 1)`
(40_isqrt.md R113). The window `[q, q + 2 ^ k)` of the root is below 2^32, so no step overflows 64 bits. -/
structure BitPairInv (k n q : Nat) (r rem bit : RingValue) : Prop where
  window : q + 2 ^ k ≤ 2 ^ 32
  root : r.toNat = q * 2 ^ k
  remainder : rem.toNat + q * q = n
  digit : bit.toNat = 2 ^ k * 2 ^ k / 4

section pass
variable {k n q : Nat} {r rem bit : RingValue}

theorem BitPairInv.digit_square (h : BitPairInv (k + 1) n q r rem bit) : bit.toNat = 2 ^ k * 2 ^ k := by
  rw [h.digit, pow_succ, mul_mul_mul_comm]
  exact Nat.mul_div_cancel _ (by decide)

/-- The sum a pass tries is at most 2^63: its double is within the square of the window's upper end. -/
theorem BitPairInv.root_add_digit_lt (h : BitPairInv (k + 1) n q r rem bit) : r.toNat + bit.toNat < 2 ^ 64 := by
  have hsquare : (q + 2 ^ (k + 1)) * (q + 2 ^ (k + 1)) ≤ 2 ^ 32 * 2 ^ 32 := Nat.mul_le_mul h.window h.window
  have hdouble : (q + 2 ^ (k + 1)) * (q + 2 ^ (k + 1)) =
      q * q + 2 * (q * 2 ^ (k + 1) + 2 ^ k * 2 ^ k) + 2 * (2 ^ k * 2 ^ k) := by ring
  rw [h.root, h.digit_square]
  omega

/-- What a pass compares with `rem` is the growth of the square when the digit is added. -/
theorem BitPairInv.toNat_trial (h : BitPairInv (k + 1) n q r rem bit) :
    (r + bit).toNat + q * q = (q + 2 ^ k) * (q + 2 ^ k) := by
  rw [BitVec.toNat_add_of_lt h.root_add_digit_lt, h.root, h.digit_square]
  ring

/-- The test of a pass is the test of the model's digit-by-digit root. -/
theorem BitPairInv.trial_le_iff (h : BitPairInv (k + 1) n q r rem bit) :
    (r + bit).toNat ≤ rem.toNat ↔ (q + 2 ^ k) * (q + 2 ^ k) ≤ n := by
  have htrial := h.toNat_trial
  have hrem := h.remainder
  omega

theorem BitPairInv.toNat_root_shift (h : BitPairInv (k + 1) n q r rem bit) : (r >>> 1).toNat = q * 2 ^ k := by
  rw [BitVec.toNat_ushiftRight, h.root, Nat.shiftRight_eq_div_pow, pow_succ, ← mul_assoc]
  exact Nat.mul_div_cancel _ (by decide)

theorem BitPairInv.toNat_digit_shift (h : BitPairInv (k + 1) n q r rem bit) :
    (bit >>> 2).toNat = 2 ^ k * 2 ^ k / 4 := by
  rw [BitVec.toNat_ushiftRight, h.digit_square, Nat.shiftRight_eq_div_pow]

/-- A pass whose test fails leaves the digit out. -/
theorem BitPairInv.skip (h : BitPairInv (k + 1) n q r rem bit) : BitPairInv k n q (r >>> 1) rem (bit >>> 2) where
  window := (Nat.add_le_add_left (Nat.pow_le_pow_right (by decide) k.le_succ) q).trans h.window
  root := h.toNat_root_shift
  remainder := h.remainder
  digit := h.toNat_digit_shift

/-- A pass whose test holds adds the digit, and `rem` loses the growth of the square. -/
theorem BitPairInv.take (h : BitPairInv (k + 1) n q r rem bit) (htest : (r + bit).toNat ≤ rem.toNat) :
    BitPairInv k n (q + 2 ^ k) ((r >>> 1) + bit) (rem - (r + bit)) (bit >>> 2) where
  window := by
    have hwindow := h.window
    omega
  root := by
    have hhalf : (r >>> 1).toNat ≤ r.toNat := by
      rw [BitVec.toNat_ushiftRight]
      exact Nat.shiftRight_le _ _
    have hnowrap : (r >>> 1).toNat + bit.toNat < 2 ^ 64 := (Nat.add_le_add_right hhalf _).trans_lt h.root_add_digit_lt
    rw [BitVec.toNat_add_of_lt hnowrap, h.toNat_root_shift, h.digit_square, Nat.add_mul]
  remainder := by
    have htrial := h.toNat_trial
    have hrem := h.remainder
    rw [BitVec.toNat_sub_of_le htest]
    omega
  digit := h.toNat_digit_shift

end pass

/-- Each pass finds the digit `isqrtFrom` finds, and `rem` stays what the square leaves of `n`. -/
theorem BitPairInv.result {k n q : Nat} {r rem bit : RingValue} (h : BitPairInv k n q r rem bit) :
    (isqrtRefLoop k r rem bit).1.toNat = isqrtFrom k n q ∧
      (isqrtRefLoop k r rem bit).2.toNat + isqrtFrom k n q * isqrtFrom k n q = n := by
  induction k generalizing q r rem bit with
  | zero => exact ⟨by simpa [isqrtRefLoop, isqrtFrom] using h.root, h.remainder⟩
  | succ k ih =>
    simp only [isqrtRefLoop, isqrtFrom, ← h.trial_le_iff]
    split
    case isTrue htest => exact ih (h.take htest)
    case isFalse _ => exact ih h.skip

/-- The variables as `isqrt_ref` sets them before its first pass. -/
theorem bitPairInv_start (a : RingValue) : BitPairInv 32 a.toNat 0 0#64 a (1#64 <<< 62) :=
  ⟨by decide, rfl, rfl, by decide⟩

/-- Settles O5: the 32 passes from the start find the 32 digits of `isqrt`. -/
theorem bitPairRootAgreesWithFloorRoot : Obligations.BitPairRootAgreesWithFloorRoot := by
  intro a
  obtain ⟨hroot, hrem⟩ := (bitPairInv_start a).result
  exact ⟨hroot, Nat.eq_sub_of_add_eq hrem⟩

/-! ### The command -/

theorem exec_isqrt_of_latched {s : State} (hlatched : Latched s) (rd rs1 : DReg) : exec (.isqrt rd rs1) s = .next s :=
  congrArg _ (unlessLatched_of_latched hlatched _)

theorem exec_isqrt_of_clear {s : State} (hclear : Clear s) (rd rs1 : DReg) :
    exec (.isqrt rd rs1) s = .next (writeData rd (sqrt64 (readData rs1 s)) s) :=
  congrArg _ (unlessLatched_of_clear hclear _)

/-- Settles O6: the root written is `isqrt` of the source, whose inequalities and bound are those of O1. -/
theorem isqrtWritesFloorRoot : Obligations.IsqrtWritesFloorRoot := by
  intro rd rs1 s
  have hspells : Spells (.isqrt rd rs1) 0x00000001#32 0xFFFF88FF#32 :=
    ⟨Laws.FormatWord.isqrt rd rs1, decodeOfEncodeIsTheCommand _ rfl⟩
  refine ⟨hspells, fun hlatched => exec_isqrt_of_latched hlatched rd rs1, fun hclear => ?_⟩
  obtain ⟨hlow, hhigh, hbound, -⟩ := isqrtIsTheUniqueFloorRoot _ (readData rs1 s).isLt
  exact ⟨_, hlow, hhigh, hbound, exec_isqrt_of_clear hclear rd rs1⟩

end Sys2Proof.Proofs
end

section
/-! PROOF. MODINV (41_modinv.md): the laws of `inv64` on odd values (R121), the convergence of the Newton iteration
(R123) and what the command does (R120). -/

namespace Sys2Proof.Proofs

open Sys2Proof.Machine Sys2Proof.Claims

/-! ### The laws of the inverse -/

/-- A factor of 1 is odd, so it has the inverse, which is unique. -/
theorem inv64_eq_of_mul_eq_one {a b : RingValue} (h : a * b = 1) : inv64 a = b :=
  inv_unique (mul_inv64 (oddValue_of_mul_eq_one h)) h

theorem inv64_mul {a : RingValue} (ha : OddValue a) : inv64 a * a = 1 :=
  (mul_comm _ _).trans (mul_inv64 ha)

theorem inv64_oddValue {a : RingValue} (ha : OddValue a) : OddValue (inv64 a) :=
  oddValue_of_mul_eq_one (inv64_mul ha)

theorem inv64_inv64 {a : RingValue} (ha : OddValue a) : inv64 (inv64 a) = a :=
  inv64_eq_of_mul_eq_one (inv64_mul ha)

theorem inv64_mul_distrib {a c : RingValue} (ha : OddValue a) (hc : OddValue c) :
    inv64 (a * c) = inv64 a * inv64 c := by
  apply inv64_eq_of_mul_eq_one
  calc a * c * (inv64 a * inv64 c) = a * inv64 a * (c * inv64 c) := mul_mul_mul_comm a c _ _
    _ = 1 := by rw [mul_inv64 ha, mul_inv64 hc, one_mul]

/-! ### The convergence of the Newton iteration -/

theorem natCast_toNat (x : RingValue) : (x.toNat : RingValue) = x := BitVec.eq_of_toNat_eq (by simp)

theorem natCast_two_pow (k : Nat) : ((2 ^ k : Nat) : RingValue) = 2 ^ k := by rw [Nat.cast_pow, Nat.cast_ofNat]

/-- The high bits and the low `k` bits of a value, in the ring. -/
theorem eq_two_pow_mul_div_add_mod (k : Nat) (x : RingValue) :
    x = 2 ^ k * (x.toNat / 2 ^ k : Nat) + (x.toNat % 2 ^ k : Nat) := by
  rw [← natCast_two_pow, ← Nat.cast_mul, ← Nat.cast_add, Nat.div_add_mod, natCast_toNat]

theorem toNat_add_two_pow_mul_modEq {k : Nat} (hk : k ≤ 64) (y z : RingValue) :
    (y + 2 ^ k * z).toNat ≡ y.toNat [MOD 2 ^ k] := by
  have hcast : y + 2 ^ k * z = (y.toNat + 2 ^ k * z.toNat : Nat) := by
    rw [Nat.cast_add, Nat.cast_mul, natCast_two_pow, natCast_toNat, natCast_toNat]
  rw [hcast]
  calc ((y.toNat + 2 ^ k * z.toNat : Nat) : RingValue).toNat
      = (y.toNat + 2 ^ k * z.toNat) % 2 ^ 64 := BitVec.toNat_ofNat _ _
    _ ≡ y.toNat + 2 ^ k * z.toNat [MOD 2 ^ k] := Nat.mod_mod_of_dvd _ (Nat.pow_dvd_pow 2 hk)
    _ ≡ y.toNat [MOD 2 ^ k] := Nat.add_mul_mod_self_left _ _ _

/-- Agreement of the low `k` bits is divisibility in the ring. -/
theorem two_pow_dvd_sub_iff {k : Nat} (hk : k ≤ 64) (x y : RingValue) :
    2 ^ k ∣ x - y ↔ x.toNat ≡ y.toNat [MOD 2 ^ k] := by
  constructor
  · rintro ⟨z, hz⟩
    rw [eq_add_of_sub_eq' hz]
    exact toNat_add_two_pow_mul_modEq hk y z
  · intro hlow
    refine ⟨(x.toNat / 2 ^ k : Nat) - (y.toNat / 2 ^ k : Nat), ?_⟩
    have hx := eq_two_pow_mul_div_add_mod k x
    have hy := eq_two_pow_mul_div_add_mod k y
    rw [hlow] at hx
    linear_combination hx - hy

/-- An update squares the residual, so it doubles the low bits in which `a * inv` is 1 (41_modinv.md R123). -/
theorem newtonFrom_doubles_low_bits (a inv : RingValue) {k : Nat} (h : (2 : RingValue) ^ k ∣ 1 - a * inv) :
    (2 : RingValue) ^ (2 * k) ∣ 1 - a * newtonFrom a 1 inv := by
  rw [newtonFrom_residual, pow_one, mul_comm, pow_mul]
  exact pow_dvd_pow_of_dvd h 2

/-- The start `inv = a` is correct in two bits at least: `1 - (2 t + 1) ^ 2` has the factor 4. -/
theorem four_dvd_one_sub_mul_self {a : RingValue} (ha : OddValue a) : (2 : RingValue) ^ 2 ∣ 1 - a * a := by
  obtain ⟨t, rfl⟩ := odd_of_oddValue ha
  exact ⟨-(t * (t + 1)), by ring⟩

/-- The two bits of the start doubled five times are all 64. -/
theorem mul_newtonFrom {a : RingValue} (ha : OddValue a) {k : Nat} (hk : 5 ≤ k) : a * newtonFrom a k a = 1 := by
  have htop : (2 : RingValue) ^ 64 = 0 := BitVec.eq_of_toNat_eq (by simp)
  have hbits : 64 ≤ 2 * 2 ^ k := Nat.mul_le_mul_left 2 (Nat.pow_le_pow_right (n := 2) (by decide) hk)
  have hdvd : (2 : RingValue) ^ 64 ∣ 1 - a * newtonFrom a k a := calc
    (2 : RingValue) ^ 64 ∣ 2 ^ (2 * 2 ^ k) := pow_dvd_pow 2 hbits
    _ = (2 ^ 2) ^ 2 ^ k := pow_mul 2 2 _
    _ ∣ (1 - a * a) ^ 2 ^ k := pow_dvd_pow_of_dvd (four_dvd_one_sub_mul_self ha) _
    _ = 1 - a * newtonFrom a k a := (newtonFrom_residual a k a).symm
  rw [htop, zero_dvd_iff] at hdvd
  exact (sub_eq_zero.mp hdvd).symm

/-- Settles O4: the residual is squared by an update, and vanishes after five from `a`. -/
theorem fiveNewtonUpdatesSuffice : Obligations.FiveNewtonUpdatesSuffice := by
  refine ⟨fun a inv k hk h => ?_, fun a k ha hk => (inv64_eq_of_mul_eq_one (mul_newtonFrom ha hk)).symm⟩
  have hbefore : (2 : RingValue) ^ k ∣ 1 - a * inv :=
    (two_pow_dvd_sub_iff (by omega) 1 _).mpr h.symm
  exact ((two_pow_dvd_sub_iff (by omega) 1 _).mp (newtonFrom_doubles_low_bits a inv hbefore)).symm

/-! ### The command -/

/-- The test of the command is the statement's oddness (00_scope.md R12). -/
theorem isOdd_iff_oddValue (a : RingValue) : isOdd a = true ↔ OddValue a := by
  rw [isOdd, BitVec.getLsbD, Nat.testBit_zero, decide_eq_true_iff, OddValue]

section command
variable {rs1 : DReg} {s : State} (rd : DReg)

theorem exec_modinv_of_latched (hlatched : Latched s) : exec (.modinv rd rs1) s = .next s :=
  congrArg _ (unlessLatched_of_latched hlatched _)

theorem exec_modinv_of_clear (hclear : Clear s) : exec (.modinv rd rs1) s = .next (modinvCommand rd rs1 s) :=
  congrArg _ (unlessLatched_of_clear hclear _)

theorem exec_modinv_of_odd (hclear : Clear s) (hodd : OddValue (readData rs1 s)) :
    exec (.modinv rd rs1) s = .next (writeData rd (inv64 (readData rs1 s)) s) := by
  rw [exec_modinv_of_clear rd hclear, modinvCommand, if_pos ((isOdd_iff_oddValue _).mpr hodd)]

theorem exec_modinv_of_even (hclear : Clear s) (heven : ¬ OddValue (readData rs1 s)) :
    exec (.modinv rd rs1) s = .next (raised .notInvertible 0#8 (.modinv rd rs1) s) := by
  rw [exec_modinv_of_clear rd hclear, modinvCommand, if_neg (mt (isOdd_iff_oddValue _).mp heven), raiseError, raised]

end command

/-- Settles O3: (a) to (d) follow from `a * inv64 a = 1` and uniqueness; for (e) the value written is `inv64` of the
source in both states. -/
theorem inverseLawsOfOddValues : Obligations.InverseLawsOfOddValues := by
  refine ⟨fun a ha => ?_, fun rd rs1 s t hs ht hodd heq => ?_⟩
  · exact ⟨mul_inv64 ha, inv64_mul ha, inv64_oddValue ha, inv64_inv64 ha, fun c hc => inv64_mul_distrib ha hc⟩
  · have htarget : exec (.modinv rd rs1) t = .next (writeData rd (inv64 (readData rs1 s)) t) := by
      rw [exec_modinv_of_odd rd ht (heq ▸ hodd), heq]
    exact ⟨_, exec_modinv_of_odd rd hs hodd, htarget⟩

/-- Settles O7: by the latch and the parity of the source. -/
theorem modinvWritesInverseOrRaises : Obligations.ModinvWritesInverseOrRaises := by
  intro rd rs1 s
  have hspells : Spells (.modinv rd rs1) 0x00000002#32 0xFFFF88FF#32 :=
    ⟨Laws.FormatWord.modinv rd rs1, decodeOfEncodeIsTheCommand _ rfl⟩
  refine ⟨hspells, exec_modinv_of_latched rd, fun hclear hodd => ?_, exec_modinv_of_even rd⟩
  exact ⟨inv64 _, mul_inv64 hodd, inv64_oddValue hodd, exec_modinv_of_odd rd hclear hodd⟩

end Sys2Proof.Proofs
end

section
/-! PROOF. AFWD and AINV (42_affine.md): the chain as a list of layers and as the loops of R133 and R135, its validation
(R132), and the laws of the two commands together (R134, R136). -/

namespace Sys2Proof.Proofs

open Sys2Proof.Machine Sys2Proof.Claims

/-! ### The layers of the chain by index -/

@[simp] theorem add64_eq_add (a b : RingValue) : add64 a b = a + b := rfl

section entries
variable {s : State}

theorem layerA_of_entry {k : Nat} {l : Layer} (h : s.table[k]? = some l) : layerA s k = l.a.value := by
  simp [layerA, h]

theorem layerB_of_entry {k : Nat} {l : Layer} (h : s.table[k]? = some l) : layerB s k = l.b.value := by
  simp [layerB, h]

theorem exists_entry {k : Nat} (hk : k < s.chainMax) : ∃ l, s.table[k]? = some l :=
  ⟨_, List.getElem?_eq_getElem hk⟩

theorem chain_entry_iff {k : Nat} {l : Layer} :
    (chain s)[k]? = some l ↔ k < s.chlen.toNat ∧ s.table[k]? = some l := by
  rw [chain_entry]
  split <;> simp [*]

/-- The loop of AFWD applies the layers one after another, the latest last (42_affine.md R133). -/
theorem forward_take {k : Nat} (hk : k ≤ s.chainMax) (v : RingValue) :
    forward (s.table.take k) v = forwardLoop s k v := by
  induction k with
  | zero => rfl
  | succ k ih =>
    obtain ⟨l, hl⟩ := exists_entry hk
    rw [List.take_add_one, hl, Option.toList_some, forward_append, ih (Nat.le_of_succ_le hk)]
    simp [forward, forwardLoop, layerA_of_entry hl, layerB_of_entry hl]

/-- The loop of AINV undoes the layers one after another, the latest first (42_affine.md R135). -/
theorem inverse_take {k : Nat} (hk : k ≤ s.chainMax) (v : RingValue) :
    inverse (s.table.take k) v = inverseLoop s k v := by
  induction k generalizing v with
  | zero => rfl
  | succ k ih =>
    obtain ⟨l, hl⟩ := exists_entry hk
    rw [List.take_add_one, hl, Option.toList_some, inverse_append, ih (Nat.le_of_succ_le hk)]
    simp [inverse, inverseLoop, layerA_of_entry hl, layerB_of_entry hl]

/-! ### Validation -/

/-- A chain passes when it fits the table and every layer in it has an odd multiplier (42_affine.md R132). -/
theorem chainPasses_iff :
    ChainPasses s ↔ s.chlen.toNat ≤ s.chainMax ∧ ∀ l ∈ chain s, OddValue l.a.value := by
  refine and_congr_right fun hfits => ⟨fun hodd l hl => ?_, fun hodd k hk => ?_⟩
  · obtain ⟨k, hkl⟩ := List.mem_iff_getElem?.mp hl
    obtain ⟨hk, hentry⟩ := chain_entry_iff.mp hkl
    exact layerA_of_entry hentry ▸ hodd k hk
  · obtain ⟨l, hentry⟩ := exists_entry (hk.trans_le hfits)
    rw [layerA_of_entry hentry]
    exact hodd l (List.mem_of_getElem? (chain_entry_iff.mpr ⟨hk, hentry⟩))

theorem oddValue_of_mem_chain (h : ChainPasses s) : ∀ l ∈ chain s, OddValue l.a.value :=
  (chainPasses_iff.mp h).2

theorem firstEven_of_passes (h : ChainPasses s) : firstEven (chain s) 0 = none :=
  (firstEven_eq_none_iff _ _).mpr fun l hl => (isOdd_iff_oddValue _).mpr (oddValue_of_mem_chain h l hl)

/-- The index found is that of the lowest even multiplier: a lower one is odd by assumption, a higher one is not the
first. -/
theorem firstEven_of_lowest_even {k : Nat} (hfits : s.chlen.toNat ≤ s.chainMax) (hk : k < s.chlen.toNat)
    (heven : ¬ OddValue (layerA s k)) (hlowest : ∀ j < k, OddValue (layerA s j)) :
    firstEven (chain s) 0 = some k := by
  obtain ⟨m, hm⟩ := exists_entry (hk.trans_le hfits)
  have hmk : (chain s)[k]? = some m := chain_entry_iff.mpr ⟨hk, hm⟩
  rw [layerA_of_entry hm, ← isOdd_iff_oddValue] at heven
  cases hfirst : firstEven (chain s) 0 with
  | none => exact absurd ((firstEven_eq_none_iff _ _).mp hfirst m (List.mem_of_getElem? hmk)) heven
  | some i =>
    obtain ⟨j, l, rfl, hl, hleven, hodd⟩ := firstEven_eq_some hfirst
    obtain hlt | rfl | hgt := Nat.lt_trichotomy j k
    · have hlodd := hlowest j hlt
      rw [layerA_of_entry (chain_entry_iff.mp hl).2, ← isOdd_iff_oddValue, hleven] at hlodd
      cases hlodd
    · rw [Nat.zero_add]
    · exact absurd (hodd k hgt m hmk) heven

theorem withValidChain_of_too_long (h : s.chainMax < s.chlen.toNat) (v : RingValue) (f : State → State) :
    withValidChain v f s = raiseError .chainLength 0#8 v s :=
  if_pos h

theorem withValidChain_of_firstEven {k : Nat} (hfits : s.chlen.toNat ≤ s.chainMax)
    (hfirst : firstEven (chain s) 0 = some k) (v : RingValue) (f : State → State) :
    withValidChain v f s = raiseError .invalidLayer (BitVec.ofNat 8 k) v s := by
  rw [withValidChain, if_neg (Nat.not_lt.mpr hfits), hfirst]

theorem withValidChain_of_passes (h : ChainPasses s) (v : RingValue) (f : State → State) :
    withValidChain v f s = f s := by
  rw [withValidChain, if_neg (Nat.not_lt.mpr h.1), firstEven_of_passes h]

end entries

/-! ### The two commands -/

/-- The command `i` is `f` behind the latch and the validation of the chain (42_affine.md R133, R135). -/
def ChainCommand (i : Instr) (f : State → State) : Prop :=
  ∀ s, exec i s = .next (unlessLatched (withValidChain (cmdValue i) f) s)

theorem chainCommand_afwd (rd rs1 : DReg) :
    ChainCommand (.afwd rd rs1) fun s => writeData rd (forward (chain s) (readData rs1 s)) s :=
  fun _ => rfl

theorem chainCommand_ainv (rd rs1 : DReg) :
    ChainCommand (.ainv rd rs1) fun s => writeData rd (inverse (chain s) (readData rs1 s)) s :=
  fun _ => rfl

section chainCommand
variable {i : Instr} {f : State → State} {s : State} (h : ChainCommand i f)
include h

theorem ChainCommand.exec_of_latched (hlatched : Latched s) : exec i s = .next s := by
  rw [h, unlessLatched_of_latched hlatched]

theorem ChainCommand.exec_of_clear (hclear : Clear s) : exec i s = .next (withValidChain (cmdValue i) f s) := by
  rw [h, unlessLatched_of_clear hclear]

theorem ChainCommand.exec_of_passes (hclear : Clear s) (hpasses : ChainPasses s) : exec i s = .next (f s) := by
  rw [h.exec_of_clear hclear, withValidChain_of_passes hpasses]

theorem ChainCommand.chainErrors : ChainErrors i s := by
  refine ⟨fun hclear htoo => ?_, fun k hclear hfits hk heven hlowest => ⟨?_, fun hmax => ?_⟩⟩
  · rw [h.exec_of_clear hclear, withValidChain_of_too_long htoo, raiseError, raised]
  · rw [h.exec_of_clear hclear, withValidChain_of_firstEven hfits (firstEven_of_lowest_even hfits hk heven hlowest),
      raiseError, raised]
  · rw [BitVec.toNat_ofNat]
    exact Nat.mod_eq_of_lt (by omega)

end chainCommand

theorem exec_afwd_of_passes (rd rs1 : DReg) {s : State} (hclear : Clear s) (hpasses : ChainPasses s) :
    exec (.afwd rd rs1) s = .next (writeData rd (forward (chain s) (readData rs1 s)) s) :=
  (chainCommand_afwd rd rs1).exec_of_passes hclear hpasses

theorem exec_ainv_of_passes (rd rs1 : DReg) {s : State} (hclear : Clear s) (hpasses : ChainPasses s) :
    exec (.ainv rd rs1) s = .next (writeData rd (inverse (chain s) (readData rs1 s)) s) :=
  (chainCommand_ainv rd rs1).exec_of_passes hclear hpasses

/-- Settles O8: the chain is the first CHLEN entries of the table, and the loop is `forward` over them. -/
theorem afwdAppliesChainInRisingOrder : Obligations.AfwdAppliesChainInRisingOrder := by
  intro rd rs1 s
  have hspells : Spells (.afwd rd rs1) 0x00000003#32 0xFFFF88FF#32 :=
    ⟨Laws.FormatWord.afwd rd rs1, decodeOfEncodeIsTheCommand _ rfl⟩
  have hcommand := chainCommand_afwd rd rs1
  refine ⟨hspells, hcommand.exec_of_latched, fun hclear hpasses => ?_, hcommand.chainErrors⟩
  rw [exec_afwd_of_passes rd rs1 hclear hpasses, chain, forward_take hpasses.1]

/-- Settles O9: as O8, the loop being `inverse` over the chain. -/
theorem ainvAppliesChainInFallingOrder : Obligations.AinvAppliesChainInFallingOrder := by
  intro rd rs1 s
  have hspells : Spells (.ainv rd rs1) 0x00000004#32 0xFFFF88FF#32 :=
    ⟨Laws.FormatWord.ainv rd rs1, decodeOfEncodeIsTheCommand _ rfl⟩
  have hcommand := chainCommand_ainv rd rs1
  refine ⟨hspells, hcommand.exec_of_latched, fun hclear hpasses => ?_, hcommand.chainErrors⟩
  rw [exec_ainv_of_passes rd rs1 hclear hpasses, chain, inverse_take hpasses.1]

/-! ### The round trip -/

/-- One layer applied and undone. -/
theorem inv64_mul_layer_sub {a : RingValue} (ha : OddValue a) (b v : RingValue) : inv64 a * (a * v + b - b) = v := by
  rw [add_sub_cancel_right, ← mul_assoc, inv64_mul ha, one_mul]

/-- One layer undone and applied. -/
theorem mul_inv64_layer_add {a : RingValue} (ha : OddValue a) (b v : RingValue) : a * (inv64 a * (v - b)) + b = v := by
  rw [← mul_assoc, mul_inv64 ha, one_mul, sub_add_cancel]

theorem inverse_forward {ls : List Layer} (h : ∀ l ∈ ls, OddValue l.a.value) (v : RingValue) :
    inverse ls (forward ls v) = v := by
  induction ls generalizing v with
  | nil => rfl
  | cons l rest ih =>
    obtain ⟨hl, hrest⟩ := List.forall_mem_cons.mp h
    rw [forward, inverse, ih hrest]
    exact inv64_mul_layer_sub hl _ _

theorem forward_inverse {ls : List Layer} (h : ∀ l ∈ ls, OddValue l.a.value) (v : RingValue) :
    forward ls (inverse ls v) = v := by
  induction ls with
  | nil => rfl
  | cons l rest ih =>
    obtain ⟨hl, hrest⟩ := List.forall_mem_cons.mp h
    calc forward (l :: rest) (inverse (l :: rest) v)
        = forward rest (l.a.value * (inv64 l.a.value * (inverse rest v - l.b.value)) + l.b.value) := rfl
      _ = v := by rw [mul_inv64_layer_add hl, ih hrest]

/-- Settles O13: the first command writes a data register only, so the second one finds the same chain and its source in
that register. -/
theorem affineRoundTrip : Obligations.AffineRoundTrip := by
  refine ⟨fun dX dY dZ s hclear hpasses => ⟨?_, ?_⟩, fun a b v ha => inv64_mul_layer_sub ha b v⟩
  · refine ⟨_, _, exec_afwd_of_passes dY dX hclear hpasses, exec_ainv_of_passes dZ dY hclear hpasses, ?_⟩
    simp [inverse_forward (oddValue_of_mem_chain hpasses)]
  · refine ⟨_, _, exec_ainv_of_passes dY dX hclear hpasses, exec_afwd_of_passes dZ dY hclear hpasses, ?_⟩
    simp [forward_inverse (oddValue_of_mem_chain hpasses)]

/-! ### The affine map -/

theorem oddValue_mul {a b : RingValue} (ha : OddValue a) (hb : OddValue b) : OddValue (a * b) := by
  have hproduct : a.toNat * b.toNat % 2 = 1 := Nat.odd_iff.mp ((Nat.odd_iff.mpr ha).mul (Nat.odd_iff.mpr hb))
  rw [OddValue, BitVec.toNat_mul]
  omega

theorem productLoop_oddValue {s : State} {k : Nat} (h : ∀ j < k, OddValue (layerA s j)) :
    OddValue (productLoop s k) := by
  induction k with
  | zero => rfl
  | succ k ih => exact oddValue_mul (h k k.lt_succ_self) (ih fun j hj => h j (hj.trans k.lt_succ_self))

theorem forwardLoop_eq_product (s : State) (k : Nat) (v : RingValue) :
    forwardLoop s k v = productLoop s k * v + forwardLoop s k 0#64 := by
  induction k with
  | zero => simp [forwardLoop, productLoop]
  | succ k ih =>
    rw [forwardLoop, forwardLoop, productLoop, ih]
    ring

theorem forward_chain_bijective {s : State} (h : ChainPasses s) : Function.Bijective (forward (chain s)) :=
  Function.bijective_iff_has_inverse.mpr
    ⟨inverse (chain s), inverse_forward (oddValue_of_mem_chain h), forward_inverse (oddValue_of_mem_chain h)⟩

/-- Settles O14: the bijection is `forward` over the chain, which `inverse` undoes on both sides. -/
theorem afwdIsAnAffineBijection : Obligations.AfwdIsAnAffineBijection := by
  intro rd rs1 s hclear hpasses
  refine ⟨forward (chain s), forward_chain_bijective hpasses, productLoop_oddValue hpasses.2,
    fun v => ?_, fun v => ?_⟩
  · rw [chain, forward_take hpasses.1, forward_take hpasses.1]
    exact forwardLoop_eq_product s _ v
  · have hexec := exec_afwd_of_passes rd rs1 (s := writeData rs1 v s) hclear hpasses
    rwa [readData_writeData_same] at hexec

/-! ### Short chains -/

/-- Settles O15: the chain of no layers passes, and both directions are the identity. -/
theorem emptyChainCopies : Obligations.EmptyChainCopies := by
  intro rd rs1 s hclear hchlen
  have hpasses : ChainPasses s := by simp [ChainPasses, hchlen]
  have hchain : chain s = [] := by simp [chain, hchlen]
  rw [exec_afwd_of_passes rd rs1 hclear hpasses, exec_ainv_of_passes rd rs1 hclear hpasses, hchain]
  exact ⟨rfl, rfl⟩

/-- AFWD with CHLEN = 2: the layer at index 0 first. -/
theorem exec_afwd_of_two_layers (rd rs1 : DReg) {s : State} (hclear : Clear s) (hchlen : s.chlen = 2#64)
    (hmax : 2 ≤ s.chainMax) (hodd0 : OddValue (layerA s 0)) (hodd1 : OddValue (layerA s 1)) :
    exec (.afwd rd rs1) s = .next
      (writeData rd (layerA s 1 * (layerA s 0 * readData rs1 s + layerB s 0) + layerB s 1) s) := by
  have hlength : s.chlen.toNat = 2 := by simp [hchlen]
  have hpasses : ChainPasses s := by
    refine ⟨hlength ▸ hmax, fun k hk => ?_⟩
    obtain rfl | rfl : k = 0 ∨ k = 1 := by omega
    · exact hodd0
    · exact hodd1
  rw [exec_afwd_of_passes rd rs1 hclear hpasses, chain, hlength, forward_take hmax]
  rfl

/-- Settles O16: 5 * (3 * 10 + 5) + 7 = 182 and 3 * (5 * 10 + 7) + 5 = 176. -/
theorem layerOrderMatters : Obligations.LayerOrderMatters := by
  intro rd rs1 s hclear hchlen hmax hsource
  constructor
  all_goals
    intro ha0 hb0 ha1 hb1
    rw [exec_afwd_of_two_layers rd rs1 hclear hchlen hmax (ha0 ▸ rfl) (ha1 ▸ rfl), ha0, hb0, ha1, hb1, hsource]
    rfl

end Sys2Proof.Proofs
end

section
/-! PROOF. DECOMP and RECON (43_geometric.md): the root and the remainder of a value as exact naturals (R151), what the two
commands do (R150, R152), and what they do one after the other (R153 to R155). -/

namespace Sys2Proof.Proofs

open Sys2Proof.Machine Sys2Proof.Claims

/-! ### The root and the remainder of a value -/

/-- What DECOMP leaves beside the root (43_geometric.md R150, the line `rem`). -/
def remainder64 (a : RingValue) : RingValue := a - sqrt64 a * sqrt64 a

theorem toNat_sqrt64 (a : RingValue) : (sqrt64 a).toNat = Nat.sqrt a.toNat := by
  rw [sqrt64, isqrt_eq_sqrt a.isLt, BitVec.toNat_ofNat, Nat.mod_eq_of_lt ((Nat.sqrt_le_self _).trans_lt a.isLt)]

theorem square_sqrt64_le (a : RingValue) : (sqrt64 a).toNat * (sqrt64 a).toNat ≤ a.toNat := by
  rw [toNat_sqrt64]
  exact Nat.sqrt_le _

theorem lt_square_sqrt64_succ (a : RingValue) : a.toNat < ((sqrt64 a).toNat + 1) * ((sqrt64 a).toNat + 1) := by
  rw [toNat_sqrt64]
  exact Nat.lt_succ_sqrt _

theorem toNat_sqrt64_le (a : RingValue) : (sqrt64 a).toNat ≤ 2 ^ 32 - 1 := by
  have hbound : Nat.sqrt a.toNat < 2 ^ 32 := Nat.sqrt_lt.mpr (by simpa using a.isLt)
  rw [toNat_sqrt64]
  exact Nat.le_pred_of_lt hbound

/-- The product of R150 does not wrap. -/
theorem toNat_sqrt64_mul_self (a : RingValue) :
    (sqrt64 a * sqrt64 a).toNat = (sqrt64 a).toNat * (sqrt64 a).toNat := by
  rw [BitVec.toNat_mul, Nat.mod_eq_of_lt ((square_sqrt64_le a).trans_lt a.isLt)]

/-- The difference of R150 does not wrap. -/
theorem toNat_remainder64 (a : RingValue) :
    (remainder64 a).toNat = a.toNat - (sqrt64 a).toNat * (sqrt64 a).toNat := by
  have hle : (sqrt64 a * sqrt64 a).toNat ≤ a.toNat := (toNat_sqrt64_mul_self a).trans_le (square_sqrt64_le a)
  rw [remainder64, BitVec.toNat_sub_of_le hle, toNat_sqrt64_mul_self]

theorem toNat_remainder64_le (a : RingValue) : (remainder64 a).toNat ≤ 2 * (sqrt64 a).toNat := by
  have hupper : a.toNat < (sqrt64 a).toNat * (sqrt64 a).toNat + 2 * (sqrt64 a).toNat + 1 :=
    (lt_square_sqrt64_succ a).trans_eq (by ring)
  rw [toNat_remainder64]
  omega

theorem sqrt64_mul_self_add_remainder64 (a : RingValue) : sqrt64 a * sqrt64 a + remainder64 a = a :=
  add_sub_cancel _ _

/-- A decomposition of a value within the bound of the remainder is its root and its remainder (43_geometric.md R151). -/
theorem decomposition_unique {a : RingValue} {r rem : Nat} (hrem : rem ≤ 2 * r) (hsum : r * r + rem = a.toNat) :
    r = (sqrt64 a).toNat ∧ rem = (remainder64 a).toNat := by
  have hroot : Nat.sqrt a.toNat = r := hsum ▸ Nat.sqrt_add_eq r (hrem.trans_eq (two_mul r))
  rw [toNat_remainder64, toNat_sqrt64, hroot, ← hsum]
  exact ⟨rfl, (Nat.add_sub_cancel_left ..).symm⟩

/-- The largest valid pair rebuilds 2^64 - 1: no valid pair wraps. -/
theorem toNat_mul_self_add_of_valid {r rem : RingValue} (hrem : rem.toNat ≤ 2 * r.toNat)
    (hroot : r.toNat ≤ 2 ^ 32 - 1) : (r * r + rem).toNat = r.toNat * r.toNat + rem.toNat := by
  have hsquare : r.toNat * r.toNat ≤ (2 ^ 32 - 1) * (2 ^ 32 - 1) := Nat.mul_le_mul hroot hroot
  rw [BitVec.toNat_add, BitVec.toNat_mul]
  omega

/-- Rebuilding a pair and taking it apart again gives the pair exactly when it was valid (43_geometric.md R154). -/
theorem decomposition_of_rebuilt_iff_valid (r rem : RingValue) :
    (sqrt64 (r * r + rem) = r ∧ remainder64 (r * r + rem) = rem) ↔
      rem.toNat ≤ 2 * r.toNat ∧ r.toNat ≤ 2 ^ 32 - 1 := by
  constructor
  · intro ⟨hr, hrem⟩
    have hremle := toNat_remainder64_le (r * r + rem)
    have hrootle := toNat_sqrt64_le (r * r + rem)
    rw [hr] at hremle hrootle
    rw [hrem] at hremle
    exact ⟨hremle, hrootle⟩
  · intro ⟨hremle, hrootle⟩
    obtain ⟨hr, hrem⟩ := decomposition_unique hremle (toNat_mul_self_add_of_valid hremle hrootle).symm
    exact ⟨BitVec.eq_of_toNat_eq hr.symm, BitVec.eq_of_toNat_eq hrem.symm⟩

/-! ### The two commands -/

theorem exec_decomp_of_latched {s : State} (hlatched : Latched s) (rd rd2 rs1 : DReg) :
    exec (.decomp rd rd2 rs1) s = .next s := by
  rw [exec, execDecomp, illegalCommand, unlessLatched_of_latched hlatched, unlessLatched_of_latched hlatched, ite_self]

section decomp
variable {rd rd2 : DReg} {s : State} (hne : rd ≠ rd2) (hclear : Clear s) (rs1 : DReg)
include hne hclear

theorem exec_decomp_of_clear : exec (.decomp rd rd2 rs1) s =
    .next (writeData rd2 (remainder64 (readData rs1 s)) (writeData rd (sqrt64 (readData rs1 s)) s)) := by
  rw [exec, execDecomp, if_neg hne, unlessLatched_of_clear hclear]
  rfl

theorem exec_decomp_pair : ∃ t, exec (.decomp rd rd2 rs1) s = .next t ∧ Clear t ∧
    readData rd t = sqrt64 (readData rs1 s) ∧ readData rd2 t = remainder64 (readData rs1 s) := by
  refine ⟨_, exec_decomp_of_clear hne hclear rs1, hclear, ?_, readData_writeData_same _ _ _⟩
  rw [readData_writeData_ne hne, readData_writeData_same]

end decomp

theorem exec_recon_of_latched {s : State} (hlatched : Latched s) (rd rs1 rs2 : DReg) :
    exec (.recon rd rs1 rs2) s = .next s :=
  congrArg _ (unlessLatched_of_latched hlatched _)

theorem exec_recon_of_clear {s : State} (hclear : Clear s) (rd rs1 rs2 : DReg) :
    exec (.recon rd rs1 rs2) s = .next (writeData rd (readData rs1 s * readData rs1 s + readData rs2 s) s) :=
  congrArg _ (unlessLatched_of_clear hclear _)

/-- Settles O10: the root written is that of ISQRT, and neither the product nor the difference wraps. -/
theorem decompWritesRootAndRemainder : Obligations.DecompWritesRootAndRemainder := by
  intro rd rd2 rs1 s
  refine ⟨fun hne => ⟨Laws.FormatWord.decomp rd rd2 rs1, decodeOfEncodeIsTheCommand _ (bne_iff_ne.mpr hne)⟩,
    fun heq => heq ▸ decode_decomp_same_destination rd rs1,
    fun hlatched => exec_decomp_of_latched hlatched rd rd2 rs1, fun hne hclear => ?_⟩
  refine ⟨_, square_sqrt64_le _, lt_square_sqrt64_succ _, ?_⟩
  rw [exec_decomp_of_clear hne hclear, ← toNat_remainder64, BitVec.ofNat_toNat, BitVec.ofNat_toNat,
    BitVec.setWidth_eq, BitVec.setWidth_eq]

/-- Settles O11: RECON is its arithmetic behind the latch, and every choice of registers has a word. -/
theorem reconRebuildsValue : Obligations.ReconRebuildsValue := by
  intro rd rs1 rs2 s
  have hspells : Spells (.recon rd rs1 rs2) 0x00000006#32 0xFFF888FF#32 :=
    ⟨Laws.FormatWord.recon rd rs1 rs2, decodeOfEncodeIsTheCommand _ rfl⟩
  exact ⟨hspells, fun hlatched => exec_recon_of_latched hlatched rd rs1 rs2,
    fun hclear => exec_recon_of_clear hclear rd rs1 rs2⟩

/-! ### The two commands together -/

/-- Settles O17: the pair written is the root and the remainder, whose naturals are the exact ones. -/
theorem decompPairIsTheUniqueDecomposition : Obligations.DecompPairIsTheUniqueDecomposition := by
  intro rd rd2 rs1 s hne hclear
  obtain ⟨t, ht, -, hroot, hrem⟩ := exec_decomp_pair hne hclear rs1
  refine ⟨t, ht, ?_⟩
  rw [hroot, hrem]
  generalize readData rs1 s = a
  have hrootle := toNat_sqrt64_le a
  have hremle := toNat_remainder64_le a
  exact ⟨square_sqrt64_le a, toNat_remainder64 a, hremle, hrootle, by omega, toNat_sqrt64_mul_self a,
    toNat_remainder64 a, fun r rem => decomposition_unique⟩

/-- Settles O18: the square of the root is subtracted by the first command and added again by the second. -/
theorem decompReconRoundTrip : Obligations.DecompReconRoundTrip := by
  intro dR dM dS dD s hne hclear
  obtain ⟨t, ht, htclear, hroot, hrem⟩ := exec_decomp_pair hne hclear dS
  refine ⟨t, _, ht, exec_recon_of_clear htclear dD dR dM, ?_, ?_⟩
  · rw [readData_writeData_same, hroot, hrem, sqrt64_mul_self_add_remainder64]
  · rw [hroot, hrem]
    exact toNat_remainder64_le _

/-- Settles O19: (2^32)^2 wraps to 0, so both pairs rebuild 5; the pair DECOMP then writes is that of the value rebuilt. -/
theorem decompAfterReconReturnsValidPairsOnly : Obligations.DecompAfterReconReturnsValidPairsOnly := by
  refine ⟨fun rd rs1 rs2 s hclear => ⟨fun hroot hrem => ?_, fun hroot hrem => ?_⟩,
    fun dR dM dD eR eM s hne hclear => ?_⟩
  · rw [exec_recon_of_clear hclear, hroot, hrem]
    rfl
  · rw [exec_recon_of_clear hclear, hroot, hrem]
    rfl
  · have hrecon := exec_recon_of_clear hclear dD dR dM
    obtain ⟨u, hu, -, hroot, hrem⟩ := exec_decomp_pair hne (s := writeData dD _ s) hclear dD
    refine ⟨_, u, hrecon, hu, ?_⟩
    rw [hroot, hrem, readData_writeData_same]
    exact decomposition_of_rebuilt_iff_valid _ _

/-- Settles O20: both commands write the same root first, and the remainder is reckoned from what the register then
holds. -/
theorem decompIsIsqrtWithRemainder : Obligations.DecompIsIsqrtWithRemainder := by
  intro dR dM dS s hne hclear
  refine ⟨_, exec_isqrt_of_clear hclear dR dS, ?_⟩
  rw [exec_decomp_of_clear hne hclear, readData_writeData_same, remainder64]

end Sys2Proof.Proofs
end

section
/-! PROOF. CLRERR (44_system.md): its one value and what it does (R160), and that after a command which raised an error it
gives the state before that command (R161). -/

namespace Sys2Proof.Proofs

open Sys2Proof.Machine Sys2Proof.Claims

/-! ### The value of CLRERR -/

theorem decode_eq_clrerr_iff (v : RingValue) : decode v = .legal .clrerr ↔ v = 7#64 := by
  have hwf : Instr.clrerr.wf = true := rfl
  have hvalue : cmdValue .clrerr = 7#64 := by decide
  rw [decode_eq_legal_iff, hvalue, eq_comm (a := 7#64)]
  exact and_iff_right hwf

/-- Opcode 07 is the row of CLRERR alone (30_encoding.md R89). -/
theorem eq_clrerr_of_opcode {v : RingValue} {i : Instr} (hopcode : v.extractLsb' 0 8 = 7#8)
    (hdecode : decode v = .legal i) : i = .clrerr := by
  obtain ⟨-, hword⟩ := (decode_eq_legal_iff_word v i).mp hdecode
  have hlow : (v.extractLsb' 0 32).extractLsb' 0 8 = 7#8 := by
    simpa [BitVec.extractLsb'_extractLsb'_of_le] using hopcode
  rw [decodeWord, hlow] at hword
  exact (matching_eq_legal_iff.mp hword).2.symm

/-! ### Its effect -/

theorem exec_clrerr (s : State) : exec .clrerr s = .next (clearError s) := rfl

theorem clearError_eq_self {s : State} (hclear : Clear s) (hnothing : NothingRecordedWhenClear s) : clearError s = s := by
  obtain ⟨herridx, hecmd⟩ := hnothing hclear
  rw [clearError, ← herridx, ← hecmd, ← show s.err = .none from hclear]

theorem clearError_raiseError (e : ErrCode) (idx : BitVec 8) (v : RingValue) (s : State) :
    clearError (raiseError e idx v s) = clearError s := rfl

/-! ### What a CMD write does about the latch -/

/-- While an error is latched no value but that of CLRERR does anything (44_system.md R160, 60_exceptions.md R184). -/
theorem execCmd_of_latched {v : RingValue} {s : State} (hv : v ≠ 7#64) (hlatched : Latched s) :
    execCmd v s = .next s := by
  obtain ⟨t, ht, ⟨i, hdecode, heffect⟩ | ⟨why, -, rfl⟩⟩ := execCmd_effect v s
  · cases heffect with
    | heldBack => exact ht
    | wrote _ hclear => exact absurd hclear hlatched
    | raised hclear => exact absurd hclear hlatched
    | cleared hi => exact absurd ((decode_eq_clrerr_iff v).mp (hi ▸ hdecode)) hv
  · rwa [illegalCommand, unlessLatched_of_latched hlatched] at ht

/-- A value that sets the latch has raised an error, recorded beside that value, and done nothing else
(60_exceptions.md R180, R181). -/
theorem raiseError_of_execCmd {v : RingValue} {s t : State} (hclear : Clear s) (hexec : execCmd v s = .next t)
    (hlatched : Latched t) : ∃ e idx, t = raiseError e idx v s := by
  obtain ⟨u, hu, heffect⟩ := execCmd_effect v s
  obtain rfl : u = t := Host.Outcome.next.inj (hu.symm.trans hexec)
  obtain ⟨i, hdecode, heffect⟩ | ⟨why, -, rfl⟩ := heffect
  · cases heffect with
    | heldBack => exact absurd hclear hlatched
    | wrote => exact absurd hclear hlatched
    | @raised e idx =>
      obtain ⟨-, hvalue⟩ := (decode_eq_legal_iff v i).mp hdecode
      exact ⟨e, idx, hvalue ▸ rfl⟩
    | cleared => exact absurd (clearError_err s) hlatched
  · exact ⟨.illegalCommand, 0#8, unlessLatched_of_clear hclear _⟩

/-! ### The obligations -/

/-- Settles O12: the value 7 is the encoding of CLRERR, the one command of opcode 07, and every other value is held back
by the latch. -/
theorem clrerrClearsTheLatch : Obligations.ClrerrClearsTheLatch := by
  refine ⟨⟨Laws.FormatWord.clrerr, decodeOfEncodeIsTheCommand _ rfl⟩, exec_clrerr, fun s hclear hnothing => ?_,
    decode_eq_clrerr_iff, fun v hopcode hv => ?_, fun v s => execCmd_of_latched⟩
  · rw [exec_clrerr, clearError_eq_self hclear hnothing]
  · cases hdecode : decode v with
    | legal i =>
      obtain rfl := eq_clrerr_of_opcode hopcode hdecode
      exact absurd ((decode_eq_clrerr_iff v).mp hdecode) hv
    | illegal why => exact ⟨why, rfl⟩

/-- Settles O32: the failed command changed the three latch fields alone, and CLRERR puts them back. -/
theorem clrerrAfterErrorIsTheStateBefore : Obligations.ClrerrAfterErrorIsTheStateBefore := by
  intro v s t hclear hnothing hexec hlatched
  obtain ⟨e, idx, rfl⟩ := raiseError_of_execCmd hclear hexec hlatched
  rw [exec_clrerr, clearError_raiseError, clearError_eq_self hclear hnothing]

/-- Settles O24: the state answered is `clearError s`. -/
theorem clrerrFrame : Obligations.ClrerrFrame := by
  intro s t hexec
  obtain rfl : clearError s = t := Host.Outcome.next.inj ((exec_clrerr s).symm.trans hexec)
  exact ⟨clearError_x s, clearError_chlen s, clearError_table s, clearError_script s, clearError_replies s⟩

end Sys2Proof.Proofs
end

section
/-! PROOF. Errors and the latch (60_exceptions.md): a CMD write as a step, what an error records, and which steps leave the
latch as it is. -/

namespace Sys2Proof.Proofs

open Sys2Proof.Machine Sys2Proof.Claims

/-! ### The steps -/

theorem step_of_no_transaction {s : State} (hs : s.script = []) : step s = .next s := by
  simp [step, nextTransaction, hs]

theorem step_of_reset {rest : List Transaction} {s : State} (hs : s.script = .reset :: rest) :
    step s = .next (hostReset { s with script := rest }) := by
  simp [step, nextTransaction, hs, perform]

/-- A step that takes a CMD write executes the value and returns Ok (60_exceptions.md R179, R183). -/
theorem step_of_execCmd {v : RingValue} {rest : List Transaction} {s t : State}
    (hs : s.script = .write cmdNumber v :: rest) (hexec : execCmd v { s with script := rest } = .next t) :
    step s = .next (reply .ok t) := by
  simp [step, nextTransaction, hs, perform, hostWrite, writeCmd_of_execCmd hexec]

theorem execCmd_of_legal {v : RingValue} {i : Instr} (hdecode : decode v = .legal i) (s : State) :
    execCmd v s = exec i s := by
  simp [execCmd, hdecode]

/-- Executing a value always completes, and touches neither the chain nor the host's two lists. -/
theorem execCmd_sameChainAndHost (v : RingValue) (s : State) :
    ∃ t, execCmd v s = .next t ∧ SameChainAndHost s t := by
  obtain ⟨t, ht, ⟨i, -, heffect⟩ | ⟨why, -, rfl⟩⟩ := execCmd_effect v s
  · exact ⟨t, ht, heffect.sameChainAndHost⟩
  · refine ⟨_, ht, ?_⟩
    obtain ⟨-, heq⟩ | ⟨-, heq⟩ := illegalCommand_cases v s
    · rw [heq]
      exact ⟨rfl, rfl, rfl, rfl⟩
    · rw [heq]
      exact ⟨rfl, rfl, rfl, rfl⟩

/-! ### What an error records -/

/-- ERRIDX is 0 for every error but InvalidLayer (60_exceptions.md R180). -/
theorem ChainError.erridx_eq_zero {s : State} {e : ErrCode} {idx : BitVec 8} (h : ChainError s e idx)
    (hlayer : e ≠ .invalidLayer) : idx = 0#8 := by
  cases h with
  | length => rfl
  | layer => exact absurd rfl hlayer

theorem Raises.erridx_eq_zero {i : Instr} {s : State} {e : ErrCode} {idx : BitVec 8} (h : Raises s i e idx)
    (hlayer : e ≠ .invalidLayer) : idx = 0#8 := by
  cases h with
  | modinv | decomp => rfl
  | afwd _ _ h | ainv _ _ h => exact h.erridx_eq_zero hlayer

/-- A command that sets the latch has raised an error, and its index is 0 unless the error is InvalidLayer. -/
theorem CommandEffect.erridx_eq_zero {i : Instr} {s t : State} (h : CommandEffect i s t) (hclear : Clear s)
    (hlatched : Latched t) (hlayer : t.err ≠ .invalidLayer) : t.erridx = 0#8 := by
  cases h with
  | heldBack | wrote => exact absurd hclear hlatched
  | raised _ hraises => exact hraises.erridx_eq_zero hlayer
  | cleared => rfl

theorem erridx_eq_zero_of_execCmd {v : RingValue} {s t : State} (hclear : Clear s) (hexec : execCmd v s = .next t)
    (hlatched : Latched t) (hlayer : t.err ≠ .invalidLayer) : t.erridx = 0#8 := by
  obtain ⟨u, hu, heffect⟩ := execCmd_effect v s
  obtain rfl : u = t := Host.Outcome.next.inj (hu.symm.trans hexec)
  obtain ⟨i, -, heffect⟩ | ⟨why, -, rfl⟩ := heffect
  · exact heffect.erridx_eq_zero hclear hlatched hlayer
  · rw [illegalCommand, unlessLatched_of_clear hclear, raiseError_erridx]

/-! ### What a step does about a latched error -/

/-- The next transaction is one of the two that lead out of the latched state (60_exceptions.md R185). -/
def NextClearsLatch (s : State) : Prop :=
  ∃ rest, s.script = .reset :: rest ∨ s.script = .write 0x010#12 7#64 :: rest

theorem step_of_nextClearsLatch {s : State} (h : NextClearsLatch s) : ∃ t, step s = .next t ∧ Clear t := by
  obtain ⟨rest, hs | hs⟩ := h
  · exact ⟨_, step_of_reset hs, hostReset_err _⟩
  · have hexec : execCmd 7#64 { s with script := rest } = .next (clearError { s with script := rest }) :=
      (execCmd_of_legal ((decode_eq_clrerr_iff _).mpr rfl) _).trans (exec_clrerr _)
    exact ⟨_, step_of_execCmd hs hexec, clearError_err { s with script := rest }⟩

theorem SameLatch.refl (s : State) : SameLatch s s := ⟨rfl, rfl, rfl, rfl⟩

/-- What keeps the latch still keeps it once its transaction is taken from the script and answered. -/
theorem SameLatch.taken_and_replied {r : Reply} {rest : List Transaction} {s t : State}
    (h : SameLatch { s with script := rest } t) : SameLatch s (reply r t) :=
  ⟨h.chainMax, h.err, h.erridx, h.ecmd⟩

/-- Every other transaction leaves a latched error as it is (60_exceptions.md R184, R186). -/
theorem nextClearsLatch_or_sameLatch {s t : State} (hlatched : Latched s) (h : step s = .next t) :
    NextClearsLatch s ∨ SameLatch s t := by
  obtain ⟨-, heq⟩ | ⟨n, rest, -, heq⟩ | ⟨v, rest, hs, -⟩ | ⟨n, v, rest, -, -, heq⟩ | ⟨rest, hs, -⟩ := step_cases s
  · exact .inr (Host.Outcome.next.inj (heq.symm.trans h) ▸ SameLatch.refl s)
  · obtain rfl := Host.Outcome.next.inj (heq.symm.trans h)
    obtain ⟨v, -, hread⟩ | ⟨-, hread⟩ := hostRead_cases n { s with script := rest } <;>
      exact .inr (hread ▸ (SameLatch.refl _).taken_and_replied)
  · by_cases hv : v = 7#64
    · exact .inl ⟨rest, .inr (hv ▸ hs)⟩
    · have hstep := step_of_execCmd hs (execCmd_of_latched hv hlatched)
      exact .inr (Host.Outcome.next.inj (hstep.symm.trans h) ▸ (SameLatch.refl _).taken_and_replied)
  · obtain rfl := Host.Outcome.next.inj (heq.symm.trans h)
    obtain ⟨u, hu, hstore⟩ | ⟨-, hstore⟩ := hostStore_cases n v { s with script := rest }
    · exact .inr (hstore ▸ (poke_sameLatch hu).taken_and_replied)
    · exact .inr (hstore ▸ (SameLatch.refl _).taken_and_replied)
  · exact .inl ⟨rest, .inl hs⟩

/-! ### The obligations -/

/-- Settles O26: the state reached is `raiseError` of the one before, with the index of the error raised. -/
theorem errorChangesOnlyTheLatch : Obligations.ErrorChangesOnlyTheLatch := by
  intro v s t hclear hexec hlatched
  refine ⟨?_, erridx_eq_zero_of_execCmd hclear hexec hlatched⟩
  obtain ⟨e, idx, rfl⟩ := raiseError_of_execCmd hclear hexec hlatched
  rfl

/-- Settles O27: the value executed leaves the state as it is, so the step only takes and answers the transaction. -/
theorem latchedCommandsDoNothing : Obligations.LatchedCommandsDoNothing :=
  fun _ _ _ hlatched hs hv => step_of_execCmd hs (execCmd_of_latched hv hlatched)

/-- Settles O28: any other transaction keeps the latch set. -/
theorem onlyClrerrOrResetLeavesTheLatch : Obligations.OnlyClrerrOrResetLeavesTheLatch := by
  refine ⟨fun s t hlatched hstep hclear => ?_, fun rest s hs => step_of_nextClearsLatch ⟨rest, hs⟩⟩
  obtain hnext | hsame := nextClearsLatch_or_sameLatch hlatched hstep
  · exact hnext
  · exact absurd (hsame.err.symm.trans hclear) hlatched

/-- Settles O29: the two transactions that change the latch leave it clear. -/
theorem firstErrorIsKept : Obligations.FirstErrorIsKept := by
  intro s t hlatched hstep hlatched'
  obtain hnext | hsame := nextClearsLatch_or_sameLatch hlatched hstep
  · obtain ⟨u, hu, hclear⟩ := step_of_nextClearsLatch hnext
    obtain rfl := Host.Outcome.next.inj (hu.symm.trans hstep)
    exact absurd hclear hlatched'
  · exact ⟨hsame.err, hsame.erridx, hsame.ecmd⟩

/-- Settles O30: executing the value completes and leaves the host's lists alone, and Ok is added after it. -/
theorem cmdWriteAlwaysReturnsOk : Obligations.CmdWriteAlwaysReturnsOk := by
  intro v rest s hs
  obtain ⟨t, ht, hsame⟩ := execCmd_sameChainAndHost v { s with script := rest }
  exact ⟨_, step_of_execCmd hs ht, congrArg (Reply.ok :: ·) hsame.replies, hsame.script⟩

/-- Settles O38: the CMD write, which executes a value, is the one transaction that is not plainly a next state. -/
theorem everyStepCompletes : Obligations.EveryStepCompletes := by
  intro s
  obtain ⟨-, heq⟩ | ⟨n, rest, -, heq⟩ | ⟨v, rest, hs, -⟩ | ⟨n, v, rest, -, -, heq⟩ | ⟨rest, -, heq⟩ := step_cases s
  · exact ⟨_, heq⟩
  · exact ⟨_, heq⟩
  · obtain ⟨t, ht, -⟩ := cmdWriteAlwaysReturnsOk v rest s hs
    exact ⟨t, ht⟩
  · exact ⟨_, heq⟩
  · exact ⟨_, heq⟩

/-- Settles O31: the step of what O33 says the value does while the latch is clear. -/
theorem illegalCommandIsRecorded : Obligations.IllegalCommandIsRecorded := by
  intro v rest s hclear hs hrule
  obtain ⟨hillegal, -⟩ := illegalExactlyByTheFourCases v
  obtain ⟨-, hexec⟩ := hillegal hrule
  obtain ⟨hrecorded, -⟩ := hexec { s with script := rest }
  exact step_of_execCmd hs (hrecorded hclear)

/-- Settles O37: `exec` always answers a next state, so the step is that state with Ok returned. -/
theorem stepRunsTheDecodedCommand : Obligations.StepRunsTheDecodedCommand := by
  refine ⟨fun v i rest s hs hdecode => ?_, fun s => step_of_no_transaction⟩
  obtain ⟨t, ht, -⟩ := exec_effect i { s with script := rest }
  rw [ht]
  exact step_of_execCmd hs ((execCmd_of_legal hdecode _).trans ht)

end Sys2Proof.Proofs
end

section
/-! PROOF. Reset and hazards (70_reset_and_hazards.md): the table HostReset leaves (R204), and that the value of an
unwritten word reaches no result (R202, R205). For the second, two states that agree on the written words are followed
through every operation of a step: a write makes the word equal in both, and a word that is read is equal in both. -/

namespace Sys2Proof.Proofs

open Sys2Proof.Machine Sys2Proof.Claims

/-! ### Agreement on the written words -/

/-- Two entries of the layer table that agree word by word. -/
structure SameLayer (l m : Layer) : Prop where
  a : SameSlot l.a m.a
  b : SameSlot l.b m.b

/-- `SameWritten` with its parts named. -/
structure AgreeOnWritten (s t : State) : Prop where
  x : ∀ r : DReg, SameSlot s.x[r] t.x[r]
  table : List.Forall₂ SameLayer s.table t.table
  err : s.err = t.err
  erridx : s.erridx = t.erridx
  ecmd : s.ecmd = t.ecmd
  chlen : s.chlen = t.chlen
  script : s.script = t.script
  replies : s.replies = t.replies

theorem sameWritten_iff {s t : State} : SameWritten s t ↔ AgreeOnWritten s t :=
  ⟨fun ⟨hx, htable, herr, herridx, hecmd, hchlen, hscript, hreplies⟩ =>
      ⟨hx, htable.imp fun _ _ ⟨ha, hb⟩ => ⟨ha, hb⟩, herr, herridx, hecmd, hchlen, hscript, hreplies⟩,
    fun h => ⟨h.x, h.table.imp fun _ _ hl => ⟨hl.a, hl.b⟩, h.err, h.erridx, h.ecmd, h.chlen, h.script, h.replies⟩⟩

theorem sameSlot_refl (p : Slot) : SameSlot p p := ⟨rfl, fun _ => rfl⟩

theorem eq_of_sameSlot {p q : Slot} (h : SameSlot p q) (hwritten : p.written = true) : p = q := by
  obtain ⟨hmark, hvalue⟩ := h
  obtain ⟨v, w⟩ := p
  obtain rfl : v = q.value := hvalue hwritten
  obtain rfl : w = q.written := hmark
  rfl

theorem SameLayer.eq_of_written {l m : Layer} (h : SameLayer l m) (ha : l.a.written = true)
    (hb : l.b.written = true) : l = m := by
  obtain ⟨p, q⟩ := l
  obtain rfl : p = m.a := eq_of_sameSlot h.a ha
  obtain rfl : q = m.b := eq_of_sameSlot h.b hb
  rfl

/-! ### Layers that agree -/

section layers
variable {ls ms : List Layer} (h : List.Forall₂ SameLayer ls ms)
include h

theorem eq_of_layers_written (ha : ∀ l ∈ ls, l.a.written = true) (hb : ∀ l ∈ ls, l.b.written = true) : ls = ms := by
  induction h with
  | nil => rfl
  | cons hl _ ih =>
    rw [List.forall_mem_cons] at ha hb
    rw [hl.eq_of_written ha.1 hb.1, ih ha.2 hb.2]

/-- Validation stops at the first even multiplier, and every multiplier up to it is written (42_affine.md R131). -/
theorem firstEven_eq_of_written (hreads : validationReadsWritten ls = true) (i : Nat) :
    firstEven ls i = firstEven ms i := by
  induction h generalizing i with
  | nil => rfl
  | cons hl _ ih =>
    simp only [validationReadsWritten, Bool.and_eq_true, Bool.or_eq_true, Bool.not_eq_true'] at hreads
    obtain ⟨hwritten, heven | hrest⟩ := hreads
    · simp [firstEven, ← eq_of_sameSlot hl.a hwritten, heven]
    · simp only [firstEven, ← eq_of_sameSlot hl.a hwritten, ih hrest]

theorem getElem?_rel (i : Nat) : Option.Rel SameLayer ls[i]? ms[i]? := by
  induction h generalizing i with
  | nil => exact .none
  | cons hl _ ih =>
    cases i with
    | zero => exact .some hl
    | succ i => exact ih i

theorem modify_rel {f : Layer → Layer} (hf : ∀ l m, SameLayer l m → SameLayer (f l) (f m)) (i : Nat) :
    List.Forall₂ SameLayer (ls.modify i f) (ms.modify i f) := by
  induction h generalizing i with
  | nil => simp
  | cons hl hrest ih =>
    cases i with
    | zero => exact .cons (hf _ _ hl) hrest
    | succ i => exact .cons hl (ih i)

end layers

/-- A chain that passes validation has every multiplier read, so every multiplier written. -/
theorem multipliers_written {ls : List Layer} (hreads : validationReadsWritten ls = true)
    (hodd : ∀ l ∈ ls, isOdd l.a.value = true) : ∀ l ∈ ls, l.a.written = true := by
  induction ls with
  | nil => simp
  | cons l rest ih =>
    rw [List.forall_mem_cons] at hodd ⊢
    simp only [validationReadsWritten, hodd.1, Bool.not_true, Bool.false_or, Bool.and_eq_true] at hreads
    exact ⟨hreads.1, ih hreads.2 hodd.2⟩

/-- A word `f` of an entry that is read and written has the same value in both tables. -/
theorem map_value_eq {o p : Option Layer} (h : Option.Rel SameLayer o p) {f : Layer → Slot}
    (hf : ∀ l m, SameLayer l m → SameSlot (f l) (f m)) (hwritten : (o.all fun l => (f l).written) = true) :
    (o.map fun l => (f l).value) = p.map fun l => (f l).value := by
  cases h with
  | none => rfl
  | some hl => simp [eq_of_sameSlot (hf _ _ hl) hwritten]

/-! ### The operations of a step keep the agreement -/

section operations
variable {s t : State} (h : AgreeOnWritten s t)
include h

theorem AgreeOnWritten.chainMax : s.chainMax = t.chainMax := h.table.length_eq

theorem AgreeOnWritten.chain : List.Forall₂ SameLayer (chain s) (chain t) := by
  rw [Machine.chain, Machine.chain, h.chlen]
  exact List.forall₂_take _ h.table

theorem AgreeOnWritten.readData {r : DReg} (hwritten : s.x[r].written = true) : readData r s = readData r t :=
  congrArg Slot.value (eq_of_sameSlot (h.x r) hwritten)

theorem AgreeOnWritten.writeData (r : DReg) {v w : RingValue} (hv : v = w) :
    AgreeOnWritten (writeData r v s) (writeData r w t) where
  __ := h
  x q := by
    subst hv
    by_cases hq : q = r
    · subst hq
      rw [x_writeData_same, x_writeData_same]
      exact sameSlot_refl _
    · rw [x_writeData_ne hq, x_writeData_ne hq]
      exact h.x q

theorem AgreeOnWritten.writeLA (i : Nat) (v : RingValue) : AgreeOnWritten (writeLA i v s) (writeLA i v t) where
  __ := h
  table := modify_rel (f := fun l => { l with a := ⟨v, true⟩ }) h.table (fun _ _ hl => ⟨sameSlot_refl _, hl.b⟩) i

theorem AgreeOnWritten.writeLB (i : Nat) (v : RingValue) : AgreeOnWritten (writeLB i v s) (writeLB i v t) where
  __ := h
  table := modify_rel (f := fun l => { l with b := ⟨v, true⟩ }) h.table (fun _ _ hl => ⟨hl.a, sameSlot_refl _⟩) i

theorem AgreeOnWritten.writeChlen (v : RingValue) : AgreeOnWritten (writeChlen v s) (writeChlen v t) :=
  { h with chlen := rfl }

theorem AgreeOnWritten.raiseError (e : ErrCode) (idx : BitVec 8) (v : RingValue) :
    AgreeOnWritten (raiseError e idx v s) (raiseError e idx v t) :=
  { h with err := rfl, erridx := rfl, ecmd := rfl }

theorem AgreeOnWritten.clearError : AgreeOnWritten (clearError s) (clearError t) :=
  { h with err := rfl, erridx := rfl, ecmd := rfl }

theorem AgreeOnWritten.reply {q r : Reply} (hr : q = r) : AgreeOnWritten (reply q s) (reply r t) :=
  { h with replies := congrArg₂ List.cons hr h.replies }

theorem AgreeOnWritten.withScript (rest : List Transaction) :
    AgreeOnWritten { s with script := rest } { t with script := rest } :=
  { h with script := rfl }

/-- The latch is the same in both, so the command is held back in both or in neither. -/
theorem AgreeOnWritten.unlessLatched {f g : State → State} (hcommand : Clear s → AgreeOnWritten (f s) (g t)) :
    AgreeOnWritten (unlessLatched f s) (unlessLatched g t) := by
  by_cases hclear : s.err = .none
  · rw [unlessLatched_of_clear hclear, unlessLatched_of_clear (h.err ▸ hclear)]
    exact hcommand hclear
  · rw [unlessLatched_of_latched hclear, unlessLatched_of_latched (h.err ▸ hclear)]
    exact h

theorem AgreeOnWritten.illegalCommand (v : RingValue) :
    AgreeOnWritten (illegalCommand v s) (illegalCommand v t) :=
  h.unlessLatched fun _ => h.raiseError _ _ _

/-- Validation comes to the same end in both; on a chain that passes, all its words and the source are written. -/
theorem AgreeOnWritten.chainCommand {rs1 : DReg} (hreads : chainReadsWritten rs1 s = true) (rd : DReg) (v : RingValue)
    (g : List Layer → RingValue → RingValue) :
    AgreeOnWritten (withValidChain v (fun s => Machine.writeData rd (g (Machine.chain s) (Machine.readData rs1 s)) s) s)
      (withValidChain v (fun s => Machine.writeData rd (g (Machine.chain s) (Machine.readData rs1 s)) s) t) := by
  by_cases hlong : s.chainMax < s.chlen.toNat
  · rw [withValidChain_of_too_long hlong, withValidChain_of_too_long (h.chainMax ▸ h.chlen ▸ hlong)]
    exact h.raiseError _ _ _
  simp only [chainReadsWritten, if_neg hlong, Bool.and_eq_true] at hreads
  obtain ⟨hvalidation, htransform⟩ := hreads
  have hfirst := firstEven_eq_of_written h.chain hvalidation 0
  simp only [withValidChain, ← h.chainMax, ← h.chlen, if_neg hlong, ← hfirst]
  cases hs : firstEven (Machine.chain s) 0 with
  | some i => exact h.raiseError _ _ _
  | none =>
    have hodd := (firstEven_eq_none_iff _ _).mp hs
    simp only [List.all_eq_true.mpr hodd, Bool.not_true, Bool.false_or, Bool.and_eq_true] at htransform
    obtain ⟨hb, hsource⟩ := htransform
    have hchain := eq_of_layers_written h.chain (multipliers_written hvalidation hodd) (List.all_eq_true.mp hb)
    exact h.writeData rd (congrArg₂ g hchain (h.readData hsource))

theorem AgreeOnWritten.modinvCommand {rs1 : DReg} (hwritten : s.x[rs1].written = true) (rd : DReg) :
    AgreeOnWritten (modinvCommand rd rs1 s) (modinvCommand rd rs1 t) := by
  rw [Machine.modinvCommand, Machine.modinvCommand, ← h.readData hwritten]
  split
  · exact h.writeData rd rfl
  · exact h.raiseError _ _ _

theorem AgreeOnWritten.decompCommand {rs1 : DReg} (hwritten : s.x[rs1].written = true) (rd rd2 : DReg) :
    AgreeOnWritten (decompCommand rd rd2 rs1 s) (decompCommand rd rd2 rs1 t) := by
  rw [Machine.decompCommand, Machine.decompCommand, ← h.readData hwritten]
  exact (h.writeData rd rfl).writeData rd2 rfl

/-- HostReset takes nothing from the state but CHAIN_MAX and the host's two lists. -/
theorem AgreeOnWritten.hostReset_eq : hostReset s = hostReset t := by
  rw [hostReset, hostReset, h.chainMax, h.script, h.replies]

end operations

theorem AgreeOnWritten.refl (s : State) : AgreeOnWritten s s :=
  ⟨fun _ => sameSlot_refl _, List.forall₂_same.mpr fun _ _ => ⟨sameSlot_refl _, sameSlot_refl _⟩,
    rfl, rfl, rfl, rfl, rfl, rfl⟩

/-! ### The transactions keep the agreement -/

/-- The two outcomes are next states, which agree on the written words. -/
inductive AgreeingNext : Host.Outcome State Fault Refusal → Host.Outcome State Fault Refusal → Prop where
  | next {s t : State} (h : AgreeOnWritten s t) : AgreeingNext (.next s) (.next t)

section transactions
variable {s t : State} (h : AgreeOnWritten s t)
include h

/-- With the latch clear, `hsources` says that the words the command reads are written. -/
theorem AgreeOnWritten.exec {i : Instr} (hreads : commandReadsWritten i s = true) :
    AgreeingNext (exec i s) (exec i t) := by
  have hsources (hclear : Clear s) := by
    simpa only [commandReadsWritten, show s.err = .none from hclear, ne_eq, not_true_eq_false, if_false] using hreads
  cases i with
  | isqrt rd rs1 =>
    exact .next (h.unlessLatched fun hclear => h.writeData rd (congrArg sqrt64 (h.readData (hsources hclear))))
  | modinv rd rs1 => exact .next (h.unlessLatched fun hclear => h.modinvCommand (hsources hclear) rd)
  | afwd rd rs1 => exact .next (h.unlessLatched fun hclear => h.chainCommand (hsources hclear) rd _ forward)
  | ainv rd rs1 => exact .next (h.unlessLatched fun hclear => h.chainCommand (hsources hclear) rd _ inverse)
  | decomp rd rd2 rs1 =>
    rw [Machine.exec, Machine.exec, execDecomp, execDecomp]
    split
    case isTrue => exact .next (h.illegalCommand _)
    case isFalse hne =>
      refine .next (h.unlessLatched fun hclear => h.decompCommand ?_ rd rd2)
      simpa [hne] using hsources hclear
  | recon rd rs1 rs2 =>
    refine .next (h.unlessLatched fun hclear => h.writeData rd ?_)
    obtain ⟨hroot, hremainder⟩ := Bool.and_eq_true_iff.mp (hsources hclear)
    rw [h.readData hroot, h.readData hremainder]
  | clrerr => exact .next h.clearError

theorem AgreeOnWritten.execCmd {v : RingValue}
    (hreads : transactionReadsWritten (.write cmdNumber v) s = true) :
    AgreeingNext (execCmd v s) (execCmd v t) := by
  rw [Machine.execCmd, Machine.execCmd]
  cases hv : decode v with
  | legal i => exact h.exec (by simpa [transactionReadsWritten, hv] using hreads)
  | illegal why => exact .next (h.illegalCommand v)

theorem AgreeOnWritten.writeCmd {v : RingValue}
    (hreads : transactionReadsWritten (.write cmdNumber v) s = true) :
    AgreeingNext (writeCmd v s) (writeCmd v t) := by
  have hexec := h.execCmd hreads
  rw [Machine.writeCmd, Machine.writeCmd]
  generalize Machine.execCmd v s = o, Machine.execCmd v t = p at hexec ⊢
  cases hexec with
  | next hagree => exact .next (hagree.reply rfl)

theorem AgreeOnWritten.peek_eq {n : RegNum} (hreads : transactionReadsWritten (.read n) s = true) :
    peek n s = peek n t := by
  simp only [peek, ← h.chainMax]
  cases hn : regName s.chainMax n <;> simp only [transactionReadsWritten, hn] at hreads
  case data r => exact congrArg some (h.readData hreads)
  case la i => exact map_value_eq (getElem?_rel h.table i) (fun _ _ hl => hl.a) hreads
  case lb i => exact map_value_eq (getElem?_rel h.table i) (fun _ _ hl => hl.b) hreads
  case status => simp only [statusValue, h.err, h.erridx]
  case ecmd => rw [h.ecmd]
  case chlen => rw [h.chlen]
  case cmd | unimplemented => rfl

theorem AgreeOnWritten.hostRead {n : RegNum} (hreads : transactionReadsWritten (.read n) s = true) :
    AgreeOnWritten (hostRead n s) (hostRead n t) := by
  rw [Machine.hostRead, Machine.hostRead, ← h.peek_eq hreads]
  split <;> exact h.reply rfl

theorem AgreeOnWritten.hostStore (n : RegNum) (v : RingValue) :
    AgreeOnWritten (hostStore n v s) (hostStore n v t) := by
  simp only [Machine.hostStore, poke, ← h.chainMax]
  cases regName s.chainMax n with
  | data r => exact (h.writeData r rfl).reply rfl
  | chlen => exact (h.writeChlen v).reply rfl
  | la i => exact (h.writeLA i v).reply rfl
  | lb i => exact (h.writeLB i v).reply rfl
  | cmd | status | ecmd | unimplemented => exact h.reply rfl

theorem AgreeOnWritten.perform {a : Transaction} (hreads : transactionReadsWritten a s = true) :
    AgreeingNext (perform a s) (perform a t) := by
  cases a with
  | read n => exact .next (h.hostRead hreads)
  | write n v =>
    rw [Machine.perform, Machine.perform, hostWrite, hostWrite]
    split
    case isTrue hn => exact h.writeCmd (hn ▸ hreads)
    case isFalse => exact .next (h.hostStore n v)
  | reset => exact .next (h.hostReset_eq ▸ .refl _)

theorem AgreeOnWritten.step (hreads : readsWritten s = true) : AgreeingNext (step s) (step t) := by
  cases hs : s.script with
  | nil =>
    rw [step_of_no_transaction hs, step_of_no_transaction (h.script ▸ hs)]
    exact .next h
  | cons a rest =>
    simp only [Machine.step, nextTransaction, hs, ← h.script]
    exact (h.withScript rest).perform (by simpa only [readsWritten, hs] using hreads)

end transactions

/-! ### The obligations -/

/-- Settles O47: the two steps answer states that agree on the written words. -/
theorem unwrittenValuesNeverReachAResult : Obligations.UnwrittenValuesNeverReachAResult := by
  intro s t s' t' h hreads hs ht
  have hnext := (sameWritten_iff.mp h).step hreads
  rw [hs, ht] at hnext
  cases hnext with
  | next hagree => exact sameWritten_iff.mpr hagree

/-- Settles O44: the state reached is `hostReset`, whose registers and table words are copies of the unwritten word. -/
theorem hostResetLeavesTheResetTable : Obligations.HostResetLeavesTheResetTable := by
  intro rest s hs
  refine ⟨_, step_of_reset hs, fun r => ?_, rfl, rfl, ?_, rfl, rfl, hostReset_chainMax _, fun l hl => ?_⟩
  · simp [Slot.unwritten]
  · simp [statusValue, errNumber]
  · rw [hostReset_table] at hl
    obtain rfl := List.eq_of_mem_replicate hl
    exact ⟨rfl, rfl⟩

end Sys2Proof.Proofs
end
